-- ==== Sys2Proof/Word.lean ====
section
/-! DEFINITION. The one data word of the block: a byte (00_scope.md R7, `DATA_W = 8`). -/

namespace Sys2Proof

/-- A stored element is one byte (00_scope.md R7). -/
abbrev Byte := BitVec 8

/-- The width of a stored element, in bits (00_scope.md R7, R8). -/
abbrev dataW : Nat := 8

end Sys2Proof
end

