-- ==== Sys2Proof/Config.lean ====
section
/-! DEFINITION. What elaboration fixes: the parameters CAPACITY and DROP_W (00_scope.md R6, R8), the
instance that `State.reset` uses, and the free values of the outputs that the spec leaves unspecified
(70_reset_and_hazards.md R151, R152). -/

namespace Sys2Proof

/-- The elaboration parameters of one instance of the block: `C` (CAPACITY, 00_scope.md R6) and `DROP_W`
(00_scope.md R8). Both are OPEN and at least 1. A block with `C = 0` cannot be instantiated
(60_exceptions.md R130), so no value of this type has it; `Sys2Proof.Machine.construct` refuses to make one.
DEDUCED, safe (log 13, 14). -/
structure Params where
  /-- `C`, the number of storage slots. -/
  capacity : Nat
  /-- `DROP_W`, the width of the `drop_count` register. -/
  dropW : Nat
  capacity_pos : 0 < capacity
  dropW_pos : 0 < dropW
  deriving DecidableEq, Repr

namespace Config

/-- The instance `State.reset` stands for: `C = 8`, `DROP_W = 8`. No source fixes `C` or `DROP_W`
(00_scope.md R6, R8). DESIGN CHOICE, unsafe for a claim about this one instance (log 1); every statement of
the package is about every instance. With `C = 8` the cycle word has 16 bits, the two bytes in which the
opcode table's rows are given. -/
def resetParams : Params := ⟨8, 8, by decide, by decide⟩

/-- FREE VALUE, safe (log 6): what `occupancy` shows in the first reset cycle, as a function of the unspecified
registers (70_reset_and_hazards.md R151; 93_implementation_defined.md U5). -/
opaque unresetOccupancy (head tail : Nat) : Nat

/-- FREE VALUE, safe (log 6): what `empty` shows in the first reset cycle. -/
opaque unresetEmpty (head tail : Nat) : Bool

/-- FREE VALUE, safe (log 6): what `full` shows in the first reset cycle. -/
opaque unresetFull (head tail : Nat) : Bool

/-- FREE VALUE, safe (log 6): what `drop_count` shows in the first reset cycle. -/
opaque unresetDropCount (dropCount : Nat) : Nat

end Config

end Sys2Proof
end

