-- ==== Sys2Proof/Machine/State.lean ====
section
/-! DEFINITION. The state of the block (10_state.md R20), what the model keeps beside it, the two kinds of stop, and
the state after reset (10_state.md R33). -/

namespace Sys2Proof.Machine

/-- The faults of the model. The block has no run-time error (60_exceptions.md R131): no state that a run reaches
raises one. -/
inductive Fault where
  /-- Safe (log 7): raised by READ and DRAIN when they would return a slot that no WRITE has written
  (92_eei_decisions.md D25). -/
  | unwrittenSlot (slot : Nat)
  /-- Safe (log 8): raised by READ and WRITE when `tail` or `head` is not below `C`, so that the slot does not
  exist (20_memory.md R46; 10_state.md R21). -/
  | noSuchSlot (slot : Nat)
  deriving DecidableEq, Repr

/-- What the model does not admit. -/
inductive Refusal where
  /-- Safe: raised by `exec` alone, for an operation that has no meaning yet; none is left. -/
  | notModelled (mnemonic : String)
  /-- Safe: raised by `construct` for `C = 0` (60_exceptions.md R130). -/
  | invalidCapacity
  /-- Safe (log 13): raised by `construct` for `DROP_W = 0`, outside the range of 00_scope.md R8. -/
  | invalidDropWidth
  /-- Safe: raised by every operation but RESET before the first reset edge (70_reset_and_hazards.md R152). -/
  | beforeFirstReset
  /-- Safe (log 3): raised by `step` when the stimulus holds no further cycle word, so that there is no edge to
  perform. -/
  | noStimulus
  /-- Safe (log 4): raised by `step` when the stimulus holds a number of more than `CW_W` bits, which is no cycle
  word (30_encoding.md R52). -/
  | notACycleWord (word : Nat)
  deriving DecidableEq, Repr

/-- The consumer port's outputs in one cycle (30_encoding.md R51, 00_scope.md R14). -/
structure ConsumerOut where
  /-- `rd_valid` -/
  rdValid : Bool
  /-- `rd_data` -/
  rdData : Byte
  /-- `drain_ok` -/
  drainOk : Bool
  /-- `drain_len` -/
  drainLen : Nat
  /-- `drain_data`, as its `C` byte lanes, lane 0 first (44_drain.md R104; log 11). -/
  drainData : List Byte
  deriving DecidableEq, Repr

/-- The status outputs in one cycle (43_occupancy.md R90, R91). -/
structure StatusOut where
  /-- `occupancy` -/
  occupancy : Nat
  /-- `empty` -/
  empty : Bool
  /-- `full` -/
  full : Bool
  /-- `drop_count` -/
  dropCount : Nat
  deriving DecidableEq, Repr

/-- All outputs of one cycle (30_encoding.md R51). -/
structure Outputs where
  status : StatusOut
  consumer : ConsumerOut
  /-- `wr_drop` -/
  wrDrop : Bool
  deriving DecidableEq, Repr

/-- Whether the first reset edge has happened (70_reset_and_hazards.md R152). The model's own (log 5). -/
inductive Phase where
  /-- Power-up: the registers are unspecified and only RESET is admitted. -/
  | unreset
  /-- From the first reset edge on. -/
  | running
  deriving DecidableEq, Repr

/-- The storage array `Stor` (10_state.md R20): the slots written so far, by slot number. An unlisted slot is
unwritten and has no value (92_eei_decisions.md D24, D25; log 7). -/
abbrev Memory := List Host.Cell

/-- The canonical form of the storage: slot numbers strictly rising. -/
abbrev Memory.wf (m : Memory) : Prop := (m.map Prod.fst).Pairwise (· < ·)

/-- The state. `head`, `tail`, `stor` and `dropCount` are the four elements of 10_state.md R20; `params` are the
elaboration parameters, which no cycle changes; the other three fields are the model's own. -/
structure State where
  /-- The parameters of this instance (00_scope.md R6, R8; log 1). -/
  params : Params
  /-- Whether the first reset has happened (log 5). -/
  phase : Phase
  /-- `head`, the next write position (10_state.md R20), as a number (log 12). -/
  head : Nat
  /-- `tail`, the next read position (10_state.md R20), as a number (log 12). -/
  tail : Nat
  /-- `Stor` (10_state.md R20, R22). -/
  stor : Memory
  /-- `drop_count` (10_state.md R20, R23), as a number (log 12). -/
  dropCount : Nat
  /-- The cycle words the environment presents in the coming cycles, next first (30_encoding.md R52; log 2). -/
  stimulus : List Nat
  /-- The outputs driven in the last cycle performed, none before the first (00_scope.md R11; log 9). -/
  out : Option Outputs
  deriving DecidableEq, Repr

/-- The state right after the first reset edge of an instance (10_state.md R33): both indices and the drop counter
0, no slot written, nothing presented yet. -/
def State.resetFor (p : Params) : State where
  params := p
  phase := .running
  head := 0
  tail := 0
  stor := []
  dropCount := 0
  stimulus := []
  out := none

/-- The machine right after reset, on the instance `Config.resetParams` (log 1). -/
def State.reset : State := State.resetFor Config.resetParams

end Sys2Proof.Machine
end

