-- ==== Sys2Proof/Machine/Widths.lean ====
section
/-! DEFINITION. The widths derived from the parameters (00_scope.md R8). -/

namespace Sys2Proof

/-- The search behind `clog2`: the least `j >= k` with `2^j >= n`, tried at most `fuel` times. -/
def clog2From (n : Nat) : Nat → Nat → Nat
  | 0, k => k
  | fuel + 1, k => if n ≤ 2 ^ k then k else clog2From n fuel (k + 1)

/-- `clog2(n)`: the least `k >= 0` with `2^k >= n` (00_scope.md R8). -/
def clog2 (n : Nat) : Nat := clog2From n n 0

/-- `IDX_W`, the width of `head` and `tail` (00_scope.md R8). -/
def Params.idxW (p : Params) : Nat := max 1 (clog2 p.capacity)

/-- `OCC_W`, the width of the `occupancy` and `drain_len` outputs (00_scope.md R8). -/
def Params.occW (p : Params) : Nat := p.idxW

/-- `TH_W`, the width of the DRAIN threshold input (00_scope.md R8). -/
def Params.thW (p : Params) : Nat := clog2 (p.capacity + 1)

/-- `LANES`, the number of byte lanes of `drain_data` (00_scope.md R8). -/
def Params.lanes (p : Params) : Nat := p.capacity

/-- `CW_W`, the width of the cycle word (00_scope.md R8, 30_encoding.md R52). -/
def Params.cwW (p : Params) : Nat := 12 + p.thW

end Sys2Proof
end

