-- ==== Sys2Proof/Machine/Flags.lean ====
section
/-! DEFINITION. The functions of the state that the status outputs show: occupancy, empty, full
(10_state.md R24 to R26), the occupancy state machine (43_occupancy.md R93), and the status outputs themselves. -/

namespace Sys2Proof.Machine

/-- `inc(i) = (i + 1) mod C` (00_scope.md R9). -/
def inc (p : Params) (i : Nat) : Nat := (i + 1) % p.capacity

/-- `occ(s) = (head - tail + C) mod C`, in integer arithmetic (10_state.md R24). -/
def State.occ (s : State) : Nat :=
  (((s.head : Int) - (s.tail : Int) + (s.params.capacity : Int)) % (s.params.capacity : Int)).toNat

/-- `isEmpty(s)` (10_state.md R25). -/
def State.isEmpty (s : State) : Bool := s.head == s.tail

/-- `isFull(s)` (10_state.md R26). -/
def State.isFull (s : State) : Bool := inc s.params s.head == s.tail

/-- The states of the occupancy state machine (43_occupancy.md R93). -/
inductive OccState where
  | EMPTY
  | PARTIAL
  | FULL
  deriving DecidableEq, Repr

/-- The state of the occupancy state machine, read off the occupancy `n` (43_occupancy.md R93). -/
def OccState.ofOcc (p : Params) (n : Nat) : OccState :=
  if n = 0 then .EMPTY else if n = p.capacity - 1 then .FULL else .PARTIAL

/-- The state of the occupancy state machine (43_occupancy.md R93). -/
def State.occState (s : State) : OccState := OccState.ofOcc s.params s.occ

/-- The status outputs once the block has been reset (43_occupancy.md R90, R91). -/
def State.statusRunning (s : State) : StatusOut where
  occupancy := s.occ
  empty := s.isEmpty
  full := s.isFull
  dropCount := s.dropCount

/-- The status outputs before the first reset edge: unspecified (70_reset_and_hazards.md R151, R152), so free values,
each within the width of its port (log 6). -/
def State.statusUnreset (s : State) : StatusOut where
  occupancy := Config.unresetOccupancy s.head s.tail % 2 ^ s.params.occW
  empty := Config.unresetEmpty s.head s.tail
  full := Config.unresetFull s.head s.tail
  dropCount := Config.unresetDropCount s.dropCount % 2 ^ s.params.dropW

/-- The OCCUPANCY operation and the other status outputs, from the pre-edge state, in every cycle
(43_occupancy.md R90, R91; 70_reset_and_hazards.md R151). -/
def State.status (s : State) : StatusOut :=
  match s.phase with
  | .running => s.statusRunning
  | .unreset => s.statusUnreset

end Sys2Proof.Machine
end

