-- ==== Sys2Proof/Machine/Operands.lean ====
section
/-! DEFINITION. What the operations take and give beside one slot: the live slots (10_state.md R28), the threshold test
(44_drain.md R101), and the lanes of `drain_data` (44_drain.md R104). -/

namespace Sys2Proof.Machine

/-- The live slots, oldest first: `(tail + i) mod C` for `i < occ` (10_state.md R28). -/
def State.liveSlots (s : State) : List Nat :=
  (List.range s.occ).map fun i => (s.tail + i) % s.params.capacity

/-- The DRAIN threshold test `zext_TH_W(occ(s)) >= t` (44_drain.md R101, 30_encoding.md R55). Both sides are unsigned
numbers, and extending one with zeros does not change it (DEDUCED, safe, log 17). -/
def State.fires (s : State) (th : Nat) : Bool := decide (th ≤ s.occ)

/-- The lanes of `drain_data`: the drained bytes from lane 0 on, `0x00` in every lane after them
(44_drain.md R104). -/
def drainLanes (p : Params) (bytes : List Byte) : List Byte :=
  bytes ++ List.replicate (p.lanes - bytes.length) 0

/-- `drain_data` as one number: lane `i` at bits `[8i+7:8i]` (44_drain.md R104). -/
def lanesValue : List Byte → Nat
  | [] => 0
  | b :: rest => b.toNat + 2 ^ 8 * lanesValue rest

/-- The consumer outputs in a cycle with no consumer operation: all zero (45_cycle.md R112). -/
def ConsumerOut.zero (p : Params) : ConsumerOut where
  rdValid := false
  rdData := 0
  drainOk := false
  drainLen := 0
  drainData := drainLanes p []

end Sys2Proof.Machine
end

