-- ==== Sys2Proof/Machine/Ops.lean ====
section
/-! DEFINITION. The shared operations: access to the storage, READ (42_read.md R81), DRAIN (44_drain.md R101),
WRITE (41_write.md R71), the cycle that orders them (45_cycle.md R111, R118), RESET (70_reset_and_hazards.md R150), and
elaboration (60_exceptions.md R130). The block takes no exception and has no trap to return from
(60_exceptions.md R131, R132), so there is no operation for either. -/

namespace Sys2Proof.Machine

/-- The byte of a slot, none where nothing has written it. -/
def Memory.find : Memory → Nat → Option Byte
  | [], _ => none
  | (k, v) :: rest, a => if k = a then some v else Memory.find rest a

/-- One byte into one slot, keeping the slot numbers rising. -/
def Memory.store : Memory → Nat → Byte → Memory
  | [], a, b => [(a, b)]
  | (k, v) :: rest, a, b =>
    if a < k then (a, b) :: (k, v) :: rest
    else if a = k then (a, b) :: rest
    else (k, v) :: Memory.store rest a b

/-- `Stor[a]` (00_scope.md R10): faults where the slot does not exist (log 8) or is unwritten (log 7). -/
def State.readSlot (s : State) (a : Nat) : Except Fault Byte :=
  if a < s.params.capacity then
    match s.stor.find a with
    | some b => .ok b
    | none => .error (.unwrittenSlot a)
  else .error (.noSuchSlot a)

/-- `Stor[a]` for each slot of a list, in order; the first fault stops it. -/
def State.readSlots (s : State) : List Nat → Except Fault (List Byte)
  | [] => .ok []
  | a :: rest =>
    match s.readSlot a with
    | .error f => .error f
    | .ok b =>
      match s.readSlots rest with
      | .error f => .error f
      | .ok bs => .ok (b :: bs)

/-- The state a successful READ leaves: `tail` advanced, the slot kept (42_read.md R81, R85). -/
def State.popped (s : State) : State := { s with tail := inc s.params s.tail }

/-- The state a firing DRAIN leaves: `tail` at `head`, the slots kept (44_drain.md R101, R106). -/
def State.drained (s : State) : State := { s with tail := s.head }

/-- The state a WRITE of `b` leaves: the byte in the slot at `head` and `head` advanced; with the buffer full, `tail`
advanced past the oldest byte and the drop counted modulo `2^DROP_W` (41_write.md R71, 10_state.md R23). -/
def State.pushed (m : State) (b : Byte) : State :=
  { m with
    stor := m.stor.store m.head b
    head := inc m.params m.head
    tail := if m.isFull then inc m.params m.tail else m.tail
    dropCount := if m.isFull then (m.dropCount + 1) % 2 ^ m.params.dropW else m.dropCount }

/-- The state with the outputs of its cycle recorded (log 9). -/
def State.driving (t : State) (o : Outputs) : State := { t with out := some o }

/-- READ on the pre-edge state: the consumer outputs and the intermediate state `m` (42_read.md R81). -/
def State.readOp (s : State) : Except Fault (ConsumerOut × State) :=
  if s.isEmpty then .ok (ConsumerOut.zero s.params, s)
  else
    match s.readSlot s.tail with
    | .error f => .error f
    | .ok b => .ok ({ ConsumerOut.zero s.params with rdValid := true, rdData := b }, s.popped)

/-- DRAIN with threshold `th` on the pre-edge state: the consumer outputs and the intermediate state `m`
(44_drain.md R101). -/
def State.drainOp (s : State) (th : Nat) : Except Fault (ConsumerOut × State) :=
  if s.fires th then
    match s.readSlots s.liveSlots with
    | .error f => .error f
    | .ok bytes =>
      .ok ({ ConsumerOut.zero s.params with
              drainOk := true, drainLen := s.occ, drainData := drainLanes s.params bytes }, s.drained)
  else .ok (ConsumerOut.zero s.params, s)

/-- WRITE of `b` on the intermediate state `m`: `wr_drop` and the state after the edge (41_write.md R71); faults where the
slot at `head` does not exist (log 8). -/
def State.writeOp (m : State) (b : Byte) : Except Fault (Bool × State) :=
  if m.head < m.params.capacity then .ok (m.isFull, m.pushed b) else .error (.noSuchSlot m.head)

/-- The consumer operation of a cycle (30_encoding.md R53). -/
inductive ConsumerOp where
  | none
  | read
  | drain (th : Nat)
  /-- The reserved command, which performs no consumer operation (30_encoding.md R57). -/
  | reserved
  deriving DecidableEq, Repr

/-- The consumer operation on the pre-edge state (45_cycle.md R111, R117, R118). -/
def State.consume (s : State) : ConsumerOp → Except Fault (ConsumerOut × State)
  | .none => .ok (ConsumerOut.zero s.params, s)
  | .read => s.readOp
  | .drain th => s.drainOp th
  | .reserved => .ok (ConsumerOut.zero s.params, s)

/-- The producer operation, if any, on the intermediate state (45_cycle.md R111, R112). -/
def State.produce (m : State) : Option Byte → Except Fault (Bool × State)
  | .none => .ok (false, m)
  | .some b => m.writeOp b

/-- One edge with `rst = 0` (45_cycle.md R110, R111, R118): the consumer operation on `s`, then the producer operation
on the result, with the status outputs of `s`. Before the first reset it is refused (70_reset_and_hazards.md R152). -/
def State.cycle (s : State) (c : ConsumerOp) (w : Option Byte) : Host.Outcome State Fault Refusal :=
  match s.phase with
  | .unreset => .refused .beforeFirstReset
  | .running =>
    match s.consume c with
    | .error f => .fault f
    | .ok (co, m) =>
      match m.produce w with
      | .error f => .fault f
      | .ok (drop, t) => .next (t.driving { status := s.status, consumer := co, wrDrop := drop })

/-- One edge with `rst = 1` (70_reset_and_hazards.md R150, R151): both indices and the drop counter cleared, the storage
kept, every response output 0, the status outputs those of the pre-edge state. -/
def State.resetEdge (s : State) : State :=
  { s with
    phase := .running, head := 0, tail := 0, dropCount := 0
    out := some { status := s.status, consumer := ConsumerOut.zero s.params, wrDrop := false } }

/-- `new(capacity)`: elaboration with `C` and `DROP_W`, then the first reset (70_reset_and_hazards.md R153). `C = 0` is
refused as InvalidCapacity (60_exceptions.md R130); `DROP_W = 0` is refused under a name of the model's (log 13). -/
def construct (capacity dropW : Nat) : Host.Outcome State Fault Refusal :=
  if hc : 0 < capacity then
    if hd : 0 < dropW then .next (State.resetFor ⟨capacity, dropW, hc, hd⟩)
    else .refused .invalidDropWidth
  else .refused .invalidCapacity

end Sys2Proof.Machine
end

