-- ==== Sys2Proof/Machine/Cycle.lean ====
section
/-! DEFINITION. The combined, idle and reserved rows (45_cycle.md). -/

namespace Sys2Proof.Machine

/-- `NOP`: no operation on either port (45_cycle.md R114). -/
def execNop (s : State) : Host.Outcome State Fault Refusal := s.cycle .none none

/-- `WRITE b + READ`: READ on `s`, then WRITE on the result (45_cycle.md R115). -/
def execWriteRead (wd : Byte) (s : State) : Host.Outcome State Fault Refusal := s.cycle .read (some wd)

/-- `WRITE b + DRAIN t`: DRAIN on `s`, then WRITE on the result (45_cycle.md R116). -/
def execWriteDrain (wd : Byte) (th : Nat) (s : State) : Host.Outcome State Fault Refusal :=
  s.cycle (.drain th) (some wd)

/-- `RSV`: the reserved consumer command performs nothing (45_cycle.md R117; log 15). -/
def execRsv (s : State) : Host.Outcome State Fault Refusal := s.cycle .reserved none

/-- `WRITE b + RSV`: the reserved consumer command performs nothing, the WRITE proceeds (45_cycle.md R117; log 15). -/
def execWriteRsv (wd : Byte) (s : State) : Host.Outcome State Fault Refusal := s.cycle .reserved (some wd)

end Sys2Proof.Machine
end

