-- ==== Sys2Proof/Machine/Drain.lean ====
section
/-! DEFINITION. The DRAIN family (44_drain.md). -/

namespace Sys2Proof.Machine

/-- `DRAIN t`: every live byte when the threshold is met, no producer operation (44_drain.md R100, R101). -/
def execDrain (th : Nat) (s : State) : Host.Outcome State Fault Refusal := s.cycle (.drain th) none

end Sys2Proof.Machine
end

