-- ==== Sys2Proof/Machine/Occupancy.lean ====
section
/-! DEFINITION. The OCCUPANCY family (43_occupancy.md). -/

namespace Sys2Proof.Machine

/-- `OCCUPANCY`, performed in every cycle (43_occupancy.md R90): the status outputs are driven from the pre-edge state and
nothing else changes. It has no encoding; taken alone it is a cycle with no other operation
(DESIGN CHOICE, safe, log 10). -/
def execOccupancy (s : State) : Host.Outcome State Fault Refusal := s.cycle .none none

end Sys2Proof.Machine
end

