-- ==== Sys2Proof/Machine/Read.lean ====
section
/-! DEFINITION. The READ family (42_read.md). -/

namespace Sys2Proof.Machine

/-- `READ`: the oldest byte, no producer operation (42_read.md R80, R81). -/
def execRead (s : State) : Host.Outcome State Fault Refusal := s.cycle .read none

end Sys2Proof.Machine
end

