-- ==== Sys2Proof/Machine/Reset.lean ====
section
/-! DEFINITION. The RESET family (70_reset_and_hazards.md). -/

namespace Sys2Proof.Machine

/-- `RESET`: the reset edge, before or after the first reset (70_reset_and_hazards.md R150, R154). -/
def execReset (s : State) : Host.Outcome State Fault Refusal := .next s.resetEdge

end Sys2Proof.Machine
end

