-- ==== Sys2Proof/Machine/Write.lean ====
section
/-! DEFINITION. The WRITE family (41_write.md). -/

namespace Sys2Proof.Machine

/-- `WRITE b`: no consumer operation, the byte written on `m = s` (41_write.md R70, R71). -/
def execWrite (wd : Byte) (s : State) : Host.Outcome State Fault Refusal := s.cycle .none (some wd)

end Sys2Proof.Machine
end

