-- ==== Sys2Proof/Syntax.lean ====
section
/-! DEFINITION. The operations of the block, one constructor per row of the opcode table
(30_encoding.md R54): what one cycle asks of the block. -/

namespace Sys2Proof

/-- The operations of one cycle (30_encoding.md R54). `wd` is the byte on `wr_data`, `th` the DRAIN threshold on
the port `th`, an unsigned integer (30_encoding.md R55; log 18). -/
inductive Instr where
  /-- `RESET` (70_reset_and_hazards.md R150). -/
  | reset
  /-- `NOP` (45_cycle.md R114). -/
  | nop
  /-- `WRITE` (41_write.md R71). -/
  | write (wd : Byte)
  /-- `READ` (42_read.md R81). -/
  | read
  /-- `WRITE_READ` (45_cycle.md R115). -/
  | writeRead (wd : Byte)
  /-- `DRAIN` (44_drain.md R101). -/
  | drain (th : Nat)
  /-- `WRITE_DRAIN` (45_cycle.md R116). -/
  | writeDrain (wd : Byte) (th : Nat)
  /-- `RSV`, the reserved consumer command alone (45_cycle.md R117). -/
  | rsv
  /-- `WRITE_RSV` (45_cycle.md R117). -/
  | writeRsv (wd : Byte)
  /-- `OCCUPANCY`, which has no encoding and is performed in every cycle (43_occupancy.md R90). -/
  | occupancy
  deriving DecidableEq, Repr

/-- The consumer command on the port `cmd` (30_encoding.md R51). -/
inductive Cmd where
  | none
  | read
  | drain
  | reserved
  deriving DecidableEq, Repr

end Sys2Proof
end

