-- ==== Sys2Proof/Machine/Dispatch.lean ====
section
/-! DEFINITION. One arm per operation. -/

namespace Sys2Proof.Machine

/-- The meaning of each operation: one clock cycle that performs it. -/
def exec (i : Instr) (s : State) : Host.Outcome State Fault Refusal :=
  match i with
  | .reset => Sys2Proof.Machine.execReset s
  | .nop => Sys2Proof.Machine.execNop s
  | .write wd => Sys2Proof.Machine.execWrite wd s
  | .read => Sys2Proof.Machine.execRead s
  | .writeRead wd => Sys2Proof.Machine.execWriteRead wd s
  | .drain th => Sys2Proof.Machine.execDrain th s
  | .writeDrain wd th => Sys2Proof.Machine.execWriteDrain wd th s
  | .rsv => Sys2Proof.Machine.execRsv s
  | .writeRsv wd => Sys2Proof.Machine.execWriteRsv wd s
  | .occupancy => Sys2Proof.Machine.execOccupancy s

end Sys2Proof.Machine
end

