-- ==== Sys2Proof/WellFormed.lean ====
section
/-! DEFINITION. Which operations a cycle word of an instance carries: the operand range of 30_encoding.md R55 and
the rows of R54 that have an encoding. -/

namespace Sys2Proof

/-- The threshold fits the `TH_W`-bit field `th` (30_encoding.md R55). A byte operand always fits. -/
def Instr.operandsFit (p : Params) : Instr → Bool
  | .drain th => decide (th < 2 ^ p.thW)
  | .writeDrain _ th => decide (th < 2 ^ p.thW)
  | .reset => true
  | .nop => true
  | .write _ => true
  | .read => true
  | .writeRead _ => true
  | .rsv => true
  | .writeRsv _ => true
  | .occupancy => true

/-- OCCUPANCY has no encoding (30_encoding.md R54); every other row has one. -/
def Instr.hasEncoding : Instr → Bool
  | .occupancy => false
  | .reset => true
  | .nop => true
  | .write _ => true
  | .read => true
  | .writeRead _ => true
  | .drain _ => true
  | .writeDrain _ _ => true
  | .rsv => true
  | .writeRsv _ => true

/-- Some cycle word of the instance carries the operation. -/
def Instr.wellFormed (p : Params) (i : Instr) : Bool := i.operandsFit p && i.hasEncoding

end Sys2Proof
end

