-- ==== Sys2Proof/Decode.lean ====
section
/-! DEFINITION. The cycle word (30_encoding.md R52), its decoder (R53), the opcode map (R54), the encoder (R59) and
the pseudo-instructions (R60). A cycle word is the number whose bit `n` is `CW[n]`. -/

namespace Sys2Proof

/-- `v[hi:lo]`, the bits `hi` down to `lo` of a number (00_scope.md R9). -/
def slice (v hi lo : Nat) : Nat := v / 2 ^ lo % 2 ^ (hi + 1 - lo)

/-- `{a, b}` with `b` of `n` bits: `a` in the high bits (00_scope.md R9). -/
def concat (a n b : Nat) : Nat := a * 2 ^ n + b

/-- The synchronous inputs of one cycle (30_encoding.md R51). -/
structure Inputs where
  wrEn : Bool
  wrData : Byte
  cmd : Cmd
  th : Nat
  rst : Bool
  deriving DecidableEq, Repr

/-- The consumer command two bits stand for (30_encoding.md R51). -/
def Cmd.ofBits : Nat → Cmd
  | 0 => .none
  | 1 => .read
  | 2 => .drain
  | _ => .reserved

/-- The two bits of a consumer command (30_encoding.md R51). -/
def Cmd.toBits : Cmd → Nat
  | .none => 0
  | .read => 1
  | .drain => 2
  | .reserved => 3

/-- The fields of a cycle word (30_encoding.md R52). -/
def Inputs.unpack (p : Params) (cw : Nat) : Inputs where
  wrData := BitVec.ofNat 8 (slice cw 7 0)
  wrEn := slice cw 8 8 == 1
  cmd := Cmd.ofBits (slice cw 10 9)
  rst := slice cw 11 11 == 1
  th := slice cw (12 + p.thW - 1) 12

/-- `CW = {TH, RST, CMD, W, WD}` (30_encoding.md R52). -/
def Inputs.pack (x : Inputs) : Nat :=
  concat (concat (concat (concat x.th 1 x.rst.toNat) 2 x.cmd.toBits) 1 x.wrEn.toNat) 8 x.wrData.toNat

/-- The operation a cycle's inputs select (30_encoding.md R53, R54): RESET before all, else the consumer command
and the producer request together. -/
def Inputs.instr (x : Inputs) : Instr :=
  if x.rst then .reset
  else
    match x.cmd, x.wrEn with
    | .none, false => .nop
    | .none, true => .write x.wrData
    | .read, false => .read
    | .read, true => .writeRead x.wrData
    | .drain, false => .drain x.th
    | .drain, true => .writeDrain x.wrData x.th
    | .reserved, false => .rsv
    | .reserved, true => .writeRsv x.wrData

/-- Why a number is not decoded. -/
inductive DecodeError where
  /-- Safe: the number has a bit at or above `CW_W`, so it is no cycle word of the instance (log 4). -/
  | notACycleWord
  deriving DecidableEq, Repr

/-- The decoder (30_encoding.md R53): every number of `CW_W` bits is decoded. DEDUCED, safe (log 4): a number of
more bits is rejected by name. -/
def decode (p : Params) (cw : Nat) : Except DecodeError Instr :=
  if cw < 2 ^ p.cwW then .ok (Inputs.unpack p cw).instr else .error .notACycleWord

/-- The inputs that select an operation, ignored fields 0 (30_encoding.md R59); OCCUPANCY has none. -/
def Instr.inputs : Instr → Option Inputs
  | .reset => some ⟨false, 0, .none, 0, true⟩
  | .nop => some ⟨false, 0, .none, 0, false⟩
  | .write wd => some ⟨true, wd, .none, 0, false⟩
  | .read => some ⟨false, 0, .read, 0, false⟩
  | .writeRead wd => some ⟨true, wd, .read, 0, false⟩
  | .drain th => some ⟨false, 0, .drain, th, false⟩
  | .writeDrain wd th => some ⟨true, wd, .drain, th, false⟩
  | .rsv => some ⟨false, 0, .reserved, 0, false⟩
  | .writeRsv wd => some ⟨true, wd, .reserved, 0, false⟩
  | .occupancy => none

/-- The encoder: the cycle word of an operation (30_encoding.md R59), none for OCCUPANCY. -/
def encode (i : Instr) : Option Nat := i.inputs.map Inputs.pack

/-- One row of the opcode map (30_encoding.md R54). -/
structure OpcodeRow where
  mnemonic : String
  mask : Nat
  pattern : Nat
  deriving DecidableEq, Repr

/-- A cycle word matches a row when `(CW & mask) == match` (30_encoding.md R54). -/
def OpcodeRow.fits (r : OpcodeRow) (cw : Nat) : Bool := cw &&& r.mask == r.pattern

/-- The opcode map (30_encoding.md R54), from its own table: the decoder does not use it. -/
def opcodeMap : List OpcodeRow :=
  [⟨"RESET", 0x800, 0x800⟩, ⟨"NOP", 0xF00, 0x000⟩, ⟨"WRITE", 0xF00, 0x100⟩, ⟨"READ", 0xF00, 0x200⟩,
   ⟨"WRITE_READ", 0xF00, 0x300⟩, ⟨"DRAIN", 0xF00, 0x400⟩, ⟨"WRITE_DRAIN", 0xF00, 0x500⟩,
   ⟨"RSV", 0xF00, 0x600⟩, ⟨"WRITE_RSV", 0xF00, 0x700⟩]

/-- The mnemonic of an operation (30_encoding.md R54). -/
def Instr.mnemonic : Instr → String
  | .reset => "RESET"
  | .nop => "NOP"
  | .write _ => "WRITE"
  | .read => "READ"
  | .writeRead _ => "WRITE_READ"
  | .drain _ => "DRAIN"
  | .writeDrain _ _ => "WRITE_DRAIN"
  | .rsv => "RSV"
  | .writeRsv _ => "WRITE_RSV"
  | .occupancy => "OCCUPANCY"

/-- The pseudo-instructions of the stimulus notation (30_encoding.md R60). -/
inductive Pseudo where
  | drainDefault
  | drainWhenFull
  | drainAll
  | writeBurst (bytes : List Byte)
  | idle (n : Nat)
  deriving DecidableEq, Repr

/-- The exact expansion of a pseudo-instruction, one operation per cycle (30_encoding.md R60). -/
def Pseudo.expand (p : Params) : Pseudo → List Instr
  | .drainDefault => [.drain p.capacity]
  | .drainWhenFull => [.drain (p.capacity - 1)]
  | .drainAll => [.drain 0]
  | .writeBurst bytes => bytes.map .write
  | .idle n => List.replicate n .nop

/-- The operation the decoder reads from a row of the opcode table whose bits are `w`, on the instance of
`State.reset`; none where it refuses. -/
def decodeTableWord (nbits w : Nat) : Option Instr :=
  match decode Config.resetParams (w % 2 ^ nbits) with
  | .ok i => some i
  | .error _ => none

end Sys2Proof
end

