-- ==== Sys2Proof/Machine/Fetch.lean ====
section
/-! DEFINITION. The environment's side of a cycle: which cycle word is on the input ports (30_encoding.md R52). The block
fetches nothing itself (20_memory.md R49). -/

namespace Sys2Proof.Machine

/-- The operation of the coming cycle and the state with its cycle word taken from the stimulus
(30_encoding.md R52, R53; log 2). -/
def State.fetch (s : State) : Except Refusal (Instr × State) :=
  match s.stimulus with
  | [] => .error .noStimulus
  | cw :: rest =>
    match decode s.params cw with
    | .error .notACycleWord => .error (.notACycleWord cw)
    | .ok i => .ok (i, { s with stimulus := rest })

/-- The stimulus with a given word in its first place: the word of the coming cycle is replaced, the words of later
cycles stay in their cycles (log 2). -/
def presentNext (w : Nat) (stimulus : List Nat) : List Nat := w :: stimulus.drop 1

end Sys2Proof.Machine
end

