-- ==== Sys2Proof/Machine/Step.lean ====
section
/-! DEFINITION. One clock cycle of the block under its stimulus (45_cycle.md R110). -/

namespace Sys2Proof.Machine

/-- One rising edge of `clk`: the cycle word the environment presents is decoded and performed (45_cycle.md R110). -/
def step (s : State) : Host.Outcome State Fault Refusal :=
  match s.fetch with
  | .error r => .refused r
  | .ok (i, s') => exec i s'

/-- The state whose coming cycle presents the word of `nbits` bits with value `w` (log 2). -/
def State.withFetchWord (s : State) (nbits w : Nat) : State :=
  { s with stimulus := presentNext (w % 2 ^ nbits) s.stimulus }

end Sys2Proof.Machine
end

