-- ==== Sys2Proof/Machine/ListModel.lean ====
section
/-! DEFINITION. The block as operations on a list of bytes (45_cycle.md R121): the spec's second, independent account of a
cycle, over the abstract state of 10_state.md R29. Nothing of the machine uses it; statements compare the two. -/

namespace Sys2Proof.Machine

/-- The abstract state `(L, d)`: the live bytes, oldest first, and the drop counter (10_state.md R29). -/
structure ListState where
  live : List Byte
  dropCount : Nat
  deriving DecidableEq, Repr

/-- `last_K(X)`, the last `K` elements of `X` (45_cycle.md R121). -/
def lastK (k : Nat) (xs : List Byte) : List Byte := xs.drop (xs.length - k)

/-- The consumer half of a cycle on the list: the consumer outputs and `L_m` (45_cycle.md R121). -/
def ListState.consume (p : Params) (a : ListState) : ConsumerOp → ConsumerOut × List Byte
  | .read =>
    match a.live with
    | [] => (ConsumerOut.zero p, [])
    | b :: rest => ({ ConsumerOut.zero p with rdValid := true, rdData := b }, rest)
  | .drain th =>
    if th ≤ a.live.length then
      ({ ConsumerOut.zero p with
          drainOk := true, drainLen := a.live.length, drainData := drainLanes p a.live }, [])
    else (ConsumerOut.zero p, a.live)
  | .none => (ConsumerOut.zero p, a.live)
  | .reserved => (ConsumerOut.zero p, a.live)

/-- The producer half of a cycle on the list `L_m`: `wr_drop` and the state after the edge (45_cycle.md R121). -/
def ListState.produce (p : Params) (m : List Byte) (d : Nat) : Option Byte → Bool × ListState
  | none => (false, ⟨m, d⟩)
  | some b =>
    let drop := decide (m.length = p.capacity - 1)
    (drop, ⟨lastK (p.capacity - 1) (m ++ [b]), if drop then (d + 1) % 2 ^ p.dropW else d⟩)

/-- The status outputs as functions of the list (10_state.md R24 to R29, 43_occupancy.md R90, R91). -/
def ListState.status (p : Params) (a : ListState) : StatusOut where
  occupancy := a.live.length
  empty := decide (a.live.length = 0)
  full := decide (a.live.length = p.capacity - 1)
  dropCount := a.dropCount

/-- One cycle on the list with `rst = 0` (45_cycle.md R121). -/
def ListState.cycle (p : Params) (a : ListState) (c : ConsumerOp) (w : Option Byte) : Outputs × ListState :=
  ({ status := a.status p, consumer := (a.consume p c).1
     wrDrop := (ListState.produce p (a.consume p c).2 a.dropCount w).1 },
   (ListState.produce p (a.consume p c).2 a.dropCount w).2)

/-- The reset cycle on the list (45_cycle.md R121, 70_reset_and_hazards.md R151). -/
def ListState.resetEdge (p : Params) (a : ListState) : Outputs × ListState :=
  ({ status := a.status p, consumer := ConsumerOut.zero p, wrDrop := false }, ⟨[], 0⟩)

/-- The consumer operation of each row of the opcode map; none for RESET, which performs no operation
(30_encoding.md R53, R54). -/
def consumerOf : Instr → ConsumerOp
  | .read => .read
  | .writeRead _ => .read
  | .drain th => .drain th
  | .writeDrain _ th => .drain th
  | .rsv => .reserved
  | .writeRsv _ => .reserved
  | .reset => .none
  | .nop => .none
  | .write _ => .none
  | .occupancy => .none

/-- The producer operation of each row of the opcode map (30_encoding.md R53, R54). -/
def producerOf : Instr → Option Byte
  | .write wd => some wd
  | .writeRead wd => some wd
  | .writeDrain wd _ => some wd
  | .writeRsv wd => some wd
  | .reset => none
  | .nop => none
  | .read => none
  | .drain _ => none
  | .rsv => none
  | .occupancy => none

/-- One cycle on the list, for any operation (45_cycle.md R121). -/
def ListState.step (p : Params) (a : ListState) (i : Instr) : Outputs × ListState :=
  if i = .reset then a.resetEdge p else a.cycle p (consumerOf i) (producerOf i)

end Sys2Proof.Machine
end

