-- ==== Sys2Proof/Machine/Trace.lean ====
section
/-! DEFINITION. What a sequence of operations accepts, returns and drops, in the terms of the laws of 45_cycle.md R122.
Nothing of the machine uses it; statements speak of it. -/

namespace Sys2Proof.Machine

/-- The bytes that the outputs of one cycle return, oldest first: the byte of a successful READ, or the valid lanes of a DRAIN
(42_read.md R81, 44_drain.md R104). -/
def Outputs.returned (o : Outputs) : List Byte :=
  (if o.consumer.rdValid then [o.consumer.rdData] else []) ++ o.consumer.drainData.take o.consumer.drainLen

/-- The bytes returned by a sequence of cycles, first returned first (45_cycle.md R122 item 2). -/
def bytesReturned (outs : List Outputs) : List Byte := outs.flatMap Outputs.returned

/-- The drop events of a sequence of cycles (10_state.md R23). -/
def dropEvents (outs : List Outputs) : Nat := outs.countP Outputs.wrDrop

/-- The bytes that a sequence of operations writes, first written first (45_cycle.md R122 item 2). -/
def bytesWritten (is : List Instr) : List Byte := is.filterMap producerOf

/-- The operations of a list in consecutive cycles: the outputs of each cycle and the state at the end, none where a cycle
does not answer a next state (45_cycle.md R110). -/
def State.perform (s : State) : List Instr → Option (List Outputs × State)
  | [] => some ([], s)
  | i :: rest =>
    match exec i s with
    | .next t =>
      match t.perform rest with
      | some (outs, u) => some (t.out.toList ++ outs, u)
      | none => none
    | .fault _ => none
    | .refused _ => none

end Sys2Proof.Machine
end

