-- ==== Sys2Proof/Safety.lean ====
section
/-! DEFINITION. What counts as a safe state and a safe run of the block: the invariants of 10_state.md (R21, R23, R30),
the abstract state (R29), and runs under a stimulus. -/

namespace Sys2Proof.Machine

/-- The index range invariant (10_state.md R21) and the range of `drop_count` (10_state.md R20). -/
abbrev State.InRange (s : State) : Prop :=
  s.head < s.params.capacity ∧ s.tail < s.params.capacity ∧ s.dropCount < 2 ^ s.params.dropW

/-- Only slots that exist are listed, `0 .. C-1` (10_state.md R20). -/
abbrev State.SlotsExist (s : State) : Prop := ∀ c ∈ s.stor, c.1 < s.params.capacity

/-- Every live slot has been written (10_state.md R30). -/
abbrev State.LiveWritten (s : State) : Prop := ∀ a ∈ s.liveSlots, (s.stor.find a).isSome = true

/-- The invariant: the storage is in canonical form over slots that exist and, once the block has been reset, the
registers are in range and every live slot is written. Before the first reset the registers are unspecified
(70_reset_and_hazards.md R152). -/
abbrev State.Inv (s : State) : Prop :=
  s.stor.wf ∧ s.SlotsExist ∧ (s.phase = .running → s.InRange ∧ s.LiveWritten)

/-- The invariant holds and the block has been reset: the states in which every operation is defined. -/
abbrev State.Ready (s : State) : Prop := s.Inv ∧ s.phase = .running

/-- The live bytes, oldest first (10_state.md R28, R29). -/
def State.live (s : State) : List Byte := s.liveSlots.filterMap s.stor.find

/-- The abstract state `(L, drop_count)` (10_state.md R29). -/
def State.abs (s : State) : ListState := ⟨s.live, s.dropCount⟩

/-- The state with its environment's coming cycle words. -/
def State.under (s : State) (words : List Nat) : State := { s with stimulus := words }

/-- The environment presents only cycle words of the instance (30_encoding.md R52). -/
abbrev State.Admitted (s : State) : Prop := ∀ w ∈ s.stimulus, w < 2 ^ s.params.cwW

/-- `k` cycles answer the state `t`: a run with no fault and no refusal. -/
def RunsTo (k : Nat) (s t : State) : Prop := Sys2Proof.core.run k s = .next t

end Sys2Proof.Machine
end

