-- ==== Sys2Proof/Certificates/Slice0/Obligations.lean ====
section
/-! DEFINITION. The statements about the block. A statement cites the rule of the spec it formalises. `Ready` states are
those that have been reset and satisfy the invariant of Safety.lean; that every step keeps the invariant is a statement of
its own. -/

open Sys2Proof Sys2Proof.Machine

/-! ### Encoding -/

/-- Every well-formed operation has a cycle word, and decoding that word gives the operation back
(30_encoding.md R52, R53, R59). -/
def Obligations.DecodeUndoesEncode : Prop :=
  ∀ (p : Params) (i : Instr), i.wellFormed p = true →
    ∃ w, encode i = some w ∧ w < 2 ^ p.cwW ∧ decode p w = .ok i

/-- The decoder of 30_encoding.md R53, bit by bit: RST is bit 11, CMD bits 10 and 9, W bit 8, WD the low byte and TH the bits
from 12 up; every cycle word decodes, and exactly one row of the opcode map matches it, the row of the operation it
decodes to. -/
def Obligations.DecoderReadsEveryCycleWord : Prop :=
  ∀ (p : Params) (cw : Nat), cw < 2 ^ p.cwW →
    (∃ i, decode p cw = .ok i ∧ i.wellFormed p = true ∧
      ∃ r ∈ opcodeMap, r.mnemonic = i.mnemonic ∧ ∀ q ∈ opcodeMap, q.fits cw = true ↔ q = r) ∧
    decode p cw = .ok
      (if cw.testBit 11 then .reset
       else match cw.testBit 10, cw.testBit 9, cw.testBit 8 with
        | false, false, false => .nop
        | false, false, true => .write (BitVec.ofNat 8 cw)
        | false, true, false => .read
        | false, true, true => .writeRead (BitVec.ofNat 8 cw)
        | true, false, false => .drain (cw / 2 ^ 12)
        | true, false, true => .writeDrain (BitVec.ofNat 8 cw) (cw / 2 ^ 12)
        | true, true, false => .rsv
        | true, true, true => .writeRsv (BitVec.ofNat 8 cw))

/-- The example cycle words that 30_encoding.md R59 gives for `C = 4` decode to the operations it names. -/
def Obligations.ExampleWordsDecode : Prop :=
  ∀ p : Params, p.capacity = 4 →
    decode p 0x0800 = .ok .reset ∧ decode p 0x0000 = .ok .nop ∧ decode p 0x0101 = .ok (.write 0x01) ∧
    decode p 0x0200 = .ok .read ∧ decode p 0x3400 = .ok (.drain 3) ∧
    decode p 0x0305 = .ok (.writeRead 0x05) ∧ decode p 0x0507 = .ok (.writeDrain 0x07 0) ∧
    decode p 0x0600 = .ok .rsv ∧ decode p 0x0709 = .ok (.writeRsv 0x09)

/-- Two cycle words that differ only in ignored fields give the same step: same outputs, same next state
(30_encoding.md R56). -/
def Obligations.IgnoredFieldsHaveNoEffect : Prop :=
  ∀ (s : State) (v w : Nat) (rest : List Nat), v < 2 ^ s.params.cwW → w < 2 ^ s.params.cwW →
    ((v.testBit 11 = true ∧ w.testBit 11 = true) ∨
     (v.testBit 11 = false ∧ w.testBit 11 = false ∧
      v.testBit 8 = w.testBit 8 ∧ v.testBit 9 = w.testBit 9 ∧ v.testBit 10 = w.testBit 10 ∧
      (v.testBit 8 = true → v % 2 ^ 8 = w % 2 ^ 8) ∧
      (v.testBit 10 = true ∧ v.testBit 9 = false → v / 2 ^ 12 = w / 2 ^ 12))) →
    step (s.under (v :: rest)) = step (s.under (w :: rest))

/-- The derived widths (00_scope.md R8), with the values it gives for `C = 4`, `50` and `1`. -/
def Obligations.DerivedWidths : Prop :=
  (∀ n, n ≤ 2 ^ clog2 n ∧ ∀ k, n ≤ 2 ^ k → clog2 n ≤ k) ∧
  (∀ p : Params, dataW = 8 ∧ p.idxW = max 1 (clog2 p.capacity) ∧ p.occW = p.idxW ∧
    p.capacity - 1 < 2 ^ p.occW ∧ p.thW = clog2 (p.capacity + 1) ∧ p.capacity < 2 ^ p.thW ∧
    p.lanes = p.capacity ∧ 1 ≤ p.dropW ∧ p.cwW = 12 + p.thW) ∧
  (∀ p : Params, p.capacity = 4 → p.idxW = 2 ∧ p.thW = 3 ∧ p.cwW = 15) ∧
  (∀ p : Params, p.capacity = 50 → p.idxW = 6 ∧ p.thW = 6 ∧ p.cwW = 18) ∧
  (∀ p : Params, p.capacity = 1 → p.idxW = 1 ∧ p.thW = 1 ∧ p.cwW = 13)

/-- The pseudo-instructions expand as 30_encoding.md R60 says; `DRAIN_DEFAULT` never fires, `DRAIN_WHEN_FULL` fires exactly
when the buffer is full, `DRAIN_ALL` always fires. -/
def Obligations.PseudoInstructionsExpand : Prop :=
  (∀ (p : Params) (bs : List Byte) (n : Nat),
    Pseudo.drainDefault.expand p = [.drain p.capacity] ∧
    Pseudo.drainWhenFull.expand p = [.drain (p.capacity - 1)] ∧
    Pseudo.drainAll.expand p = [.drain 0] ∧
    ((Pseudo.writeBurst bs).expand p).length = bs.length ∧
    (∀ k : Nat, ((Pseudo.writeBurst bs).expand p)[k]? = bs[k]?.map Instr.write) ∧
    ((Pseudo.idle n).expand p).length = n ∧ ∀ i ∈ (Pseudo.idle n).expand p, i = .nop) ∧
  ∀ s : State, s.Ready →
    (∀ i ∈ Pseudo.drainDefault.expand s.params,
      ∃ t o, exec i s = .next t ∧ t.out = some o ∧ o.consumer.drainOk = false) ∧
    (∀ i ∈ Pseudo.drainWhenFull.expand s.params,
      ∃ t o, exec i s = .next t ∧ t.out = some o ∧ o.consumer.drainOk = s.isFull) ∧
    (∀ i ∈ Pseudo.drainAll.expand s.params,
      ∃ t o, exec i s = .next t ∧ t.out = some o ∧ o.consumer.drainOk = true)

/-! ### The step and its admission -/

/-- A step runs the operation its cycle word decodes to, with that word taken from the stimulus
(45_cycle.md R110; the stimulus list is the model's, log 2). -/
def Obligations.StepRunsDecodedOperation : Prop :=
  ∀ (s : State) (cw : Nat) (rest : List Nat) (i : Instr),
    s.stimulus = cw :: rest → decode s.params cw = .ok i → step s = exec i { s with stimulus := rest }

/-- Without a cycle word there is no edge: the model's own two refusals (logs 3 and 4). -/
def Obligations.StepStopsWithoutCycleWord : Prop :=
  (∀ s : State, s.stimulus = [] → step s = .refused .noStimulus) ∧
  (∀ (s : State) (w : Nat) (rest : List Nat), s.stimulus = w :: rest → 2 ^ s.params.cwW ≤ w →
    step s = .refused (.notACycleWord w))

/-- Before the first reset edge every operation but RESET is refused, and RESET starts the block
(70_reset_and_hazards.md R152). -/
def Obligations.OnlyResetBeforeFirstReset : Prop :=
  ∀ s : State, s.phase = .unreset →
    (∀ i : Instr, i ≠ .reset → exec i s = .refused .beforeFirstReset) ∧
    ∃ t, exec .reset s = .next t ∧ t.phase = .running ∧ t.head = 0 ∧ t.tail = 0 ∧ t.dropCount = 0

/-- In the first reset cycle the response outputs are 0 and the status outputs are values their ports can show; which ones is
left free (70_reset_and_hazards.md R151; the form of the free values is the model's choice, log 6). -/
def Obligations.FirstResetOutputs : Prop :=
  ∀ s : State, s.phase = .unreset →
    ∃ t o, exec .reset s = .next t ∧ t.out = some o ∧
      o.status.occupancy < 2 ^ s.params.occW ∧ o.status.dropCount < 2 ^ s.params.dropW ∧
      o.consumer = ⟨false, 0x00, false, 0, List.replicate s.params.capacity 0x00⟩ ∧ o.wrDrop = false

/-- `C = 0` is refused as InvalidCapacity when a block is made, every other capacity is admitted, and no block ever signals
InvalidCapacity in a cycle (60_exceptions.md R130). -/
def Obligations.ZeroCapacityRefusedAtElaboration : Prop :=
  (∀ dropW, construct 0 dropW = .refused .invalidCapacity) ∧
  (∀ capacity dropW, 0 < capacity → 0 < dropW →
    ∃ t, construct capacity dropW = .next t ∧ t.params.capacity = capacity ∧ t.params.dropW = dropW ∧ t.Ready) ∧
  (∀ s : State, 1 ≤ s.params.capacity) ∧
  (∀ (i : Instr) (s : State), exec i s ≠ .refused .invalidCapacity) ∧
  ∀ s : State, step s ≠ .refused .invalidCapacity

/-! ### Reset -/

/-- The reset cycle from any state and for any other inputs: both indices and the drop counter cleared, the storage kept, every
response output 0, the status outputs those of the pre-edge state, and after it the status outputs of an empty buffer
(70_reset_and_hazards.md R150, R151). -/
def Obligations.ResetCycle : Prop :=
  (∀ s : State,
    exec .reset s = .next { s with
      phase := .running, head := 0, tail := 0, dropCount := 0
      out := some { status := s.status, wrDrop := false
                    consumer := ⟨false, 0x00, false, 0, List.replicate s.params.capacity 0x00⟩ } } ∧
    (s.phase = .running →
      s.status = ⟨s.occ, decide (s.head = s.tail), decide ((s.head + 1) % s.params.capacity = s.tail), s.dropCount⟩) ∧
    ∃ t, exec .reset s = .next t ∧ t.status = ⟨0, true, decide (s.params.capacity = 1), 0⟩) ∧
  ∀ (s : State) (cw : Nat) (rest : List Nat), s.stimulus = cw :: rest → cw < 2 ^ s.params.cwW →
    cw.testBit 11 = true → step s = exec .reset { s with stimulus := rest }

/-- What a reset edge leaves, and the functions of the state after it (10_state.md R33). -/
def Obligations.StateAfterReset : Prop :=
  ∀ s : State, ∃ t, exec .reset s = .next t ∧ t.head = 0 ∧ t.tail = 0 ∧ t.dropCount = 0 ∧ t.stor = s.stor ∧
    t.occ = 0 ∧ t.isEmpty = true ∧ (t.isFull = true ↔ s.params.capacity = 1) ∧ t.occState = .EMPTY ∧ t.live = []

/-! ### Functions of the state -/

/-- Full and empty as functions of the occupancy, and the bound on the occupancy (10_state.md R25, R26, R27). -/
def Obligations.FullAndEmptyByOccupancy : Prop :=
  ∀ s : State, s.occ ≤ s.params.capacity - 1 ∧
    (s.isEmpty = true ↔ s.head = s.tail) ∧
    (s.isFull = true ↔ (s.head + 1) % s.params.capacity = s.tail) ∧
    (s.head < s.params.capacity → s.tail < s.params.capacity →
      (s.isEmpty = true ↔ s.occ = 0) ∧
      (s.isFull = true ↔ s.occ = s.params.capacity - 1) ∧
      (s.params.capacity = 1 → s.isEmpty = true ∧ s.isFull = true) ∧
      (2 ≤ s.params.capacity → ¬(s.isEmpty = true ∧ s.isFull = true)))

/-- The live slots and live bytes, oldest first; the slot at `head` is never live, and it is the only slot that is not live
when the buffer is full (10_state.md R28). -/
def Obligations.LiveSlotsOfAState : Prop :=
  ∀ s : State, s.head < s.params.capacity → s.tail < s.params.capacity →
    s.liveSlots.length = s.occ ∧ s.liveSlots.Nodup ∧
    (∀ i < s.occ, s.liveSlots[i]? = some ((s.tail + i) % s.params.capacity)) ∧
    (s.LiveWritten → s.live.length = s.occ ∧
      ∀ i < s.occ, s.live[i]? = s.stor.find ((s.tail + i) % s.params.capacity)) ∧
    s.head ∉ s.liveSlots ∧
    (2 ≤ s.params.capacity → s.isFull = true →
      ∀ a < s.params.capacity, a ∈ s.liveSlots ↔ a ≠ s.head)

/-- The states of the occupancy state machine, the outputs `empty` and `full` in each, and which exist for which capacity
(43_occupancy.md R93). -/
def Obligations.OccupancyStateMachine : Prop :=
  (∀ s : State, s.phase = .running → s.head < s.params.capacity → s.tail < s.params.capacity →
    (s.occState = .EMPTY ↔ s.occ = 0) ∧
    (s.occState = .PARTIAL ↔ 1 ≤ s.occ ∧ s.occ + 2 ≤ s.params.capacity) ∧
    (s.occState = .FULL ↔ s.occ = s.params.capacity - 1 ∧ 2 ≤ s.params.capacity) ∧
    (s.occState = .EMPTY → s.status.empty = true ∧ s.status.full = decide (s.params.capacity = 1)) ∧
    (s.occState = .PARTIAL → s.status.empty = false ∧ s.status.full = false) ∧
    (s.occState = .FULL → s.status.empty = false ∧ s.status.full = true) ∧
    (s.params.capacity = 1 → s.occState = .EMPTY) ∧
    (s.params.capacity = 2 → s.occState ≠ .PARTIAL)) ∧
  ∀ (p : Params) (x : OccState), 3 ≤ p.capacity → ∃ s : State, s.params = p ∧ s.Ready ∧ s.occState = x

/-! ### The operations, one by one -/

/-- WRITE (41_write.md R71), on any intermediate state `m`, and as the lone WRITE and the WRITE_RSV that is equal to it: the slot
at `head` takes the byte and no other slot changes, `head` advances, and on a full buffer `tail` advances and the drop is
counted. Everything else is unchanged. -/
def Obligations.WriteStoresAtHead : Prop :=
  ∀ (m : State) (wd : Byte), m.head < m.params.capacity →
    let nh := (m.head + 1) % m.params.capacity
    let t : State := { m with
      stor := m.stor.store m.head wd
      head := nh
      tail := if nh = m.tail then (m.tail + 1) % m.params.capacity else m.tail
      dropCount := if nh = m.tail then (m.dropCount + 1) % 2 ^ m.params.dropW else m.dropCount }
    let o : Outputs :=
      { status := m.status, wrDrop := decide (nh = m.tail)
        consumer := ⟨false, 0x00, false, 0, List.replicate m.params.capacity 0x00⟩ }
    m.writeOp wd = .ok (decide (nh = m.tail), t) ∧
    (m.phase = .running →
      exec (.write wd) m = .next { t with out := some o } ∧
      exec (.writeRsv wd) m = .next { t with out := some o }) ∧
    t.stor.find m.head = some wd ∧ ∀ a, a ≠ m.head → t.stor.find a = m.stor.find a

/-- READ (42_read.md R81): nothing on an empty buffer, else the byte at `tail` and `tail` advanced. Everything else, every
slot with it, is unchanged. -/
def Obligations.ReadTakesTheByteAtTail : Prop :=
  ∀ s : State, s.phase = .running →
    (s.head = s.tail →
      exec .read s = .next { s with
        out := some { status := s.status, wrDrop := false
                      consumer := ⟨false, 0x00, false, 0, List.replicate s.params.capacity 0x00⟩ } }) ∧
    (s.head ≠ s.tail → s.tail < s.params.capacity → ∀ b, s.stor.find s.tail = some b →
      exec .read s = .next { s with
        tail := (s.tail + 1) % s.params.capacity
        out := some { status := s.status, wrDrop := false
                      consumer := ⟨true, b, false, 0, List.replicate s.params.capacity 0x00⟩ } })

/-- DRAIN (44_drain.md R101): below the threshold nothing; else every live byte, in order from `tail`, and `tail` set to
`head`. Everything else, every slot with it, is unchanged. -/
def Obligations.DrainTakesEveryLiveByte : Prop :=
  ∀ (s : State) (th : Nat), s.phase = .running →
    (s.occ < th →
      exec (.drain th) s = .next { s with
        out := some { status := s.status, wrDrop := false
                      consumer := ⟨false, 0x00, false, 0, List.replicate s.params.capacity 0x00⟩ } }) ∧
    (th ≤ s.occ → s.LiveWritten →
      ∃ bytes : List Byte, bytes.length = s.occ ∧
        (∀ i < s.occ, bytes[i]? = s.stor.find ((s.tail + i) % s.params.capacity)) ∧
        exec (.drain th) s = .next { s with
          tail := s.head
          out := some { status := s.status, wrDrop := false
                        consumer := ⟨false, 0x00, true, s.occ,
                          bytes ++ List.replicate (s.params.capacity - s.occ) 0x00⟩ } })

/-- NOP, and RSV, which is equal to it: no state change, every response output 0, the status outputs those of `s`
(45_cycle.md R114, R117). -/
def Obligations.NopAndReservedChangeNothing : Prop :=
  ∀ s : State, s.phase = .running →
    let t : State := { s with
      out := some { status := ⟨s.occ, s.isEmpty, s.isFull, s.dropCount⟩, wrDrop := false
                    consumer := ⟨false, 0x00, false, 0, List.replicate s.params.capacity 0x00⟩ } }
    exec .nop s = .next t ∧ exec .rsv s = .next t

/-- The status outputs in every cycle, whatever the operation, show the pre-edge state: `occupancy` by the one formula, `empty`,
`full` and `drop_count` (43_occupancy.md R90, R91). -/
def Obligations.StatusShowsPreEdgeState : Prop :=
  ∀ (i : Instr) (s t : State), s.phase = .running → exec i s = .next t →
    ∃ o, t.out = some o ∧
      (o.status.occupancy : Int) = (s.head - s.tail + s.params.capacity) % (s.params.capacity : Int) ∧
      o.status.empty = decide (s.head = s.tail) ∧
      o.status.full = decide ((s.head + 1) % s.params.capacity = s.tail) ∧
      o.status.dropCount = s.dropCount

/-- OCCUPANCY taken alone drives the status outputs of the pre-edge state and changes no state (43_occupancy.md R90). That it is
then a cycle of its own, with every response output 0, is the model's choice (log 10). -/
def Obligations.OccupancyAloneChangesNothing : Prop :=
  ∀ s : State, s.phase = .running →
    exec .occupancy s = .next { s with
      out := some { status := ⟨s.occ, s.isEmpty, s.isFull, s.dropCount⟩, wrDrop := false
                    consumer := ⟨false, 0x00, false, 0, List.replicate s.params.capacity 0x00⟩ } }

/-- The order within a cycle (45_cycle.md R111): WRITE_READ and WRITE_DRAIN are the consumer operation on `s`, then the WRITE on
the state it leaves; each response output comes from the operation that drives it and the status outputs come from
`s`. -/
def Obligations.ConsumerBeforeProducer : Prop :=
  ∀ (s : State) (wd : Byte) (th : Nat), s.Ready →
    (∃ m u om ou, exec .read s = .next m ∧ m.out = some om ∧ exec (.write wd) m = .next u ∧ u.out = some ou ∧
      exec (.writeRead wd) s = .next { u with
        out := some { status := s.status, consumer := om.consumer, wrDrop := ou.wrDrop } }) ∧
    ∃ m u om ou, exec (.drain th) s = .next m ∧ m.out = some om ∧ exec (.write wd) m = .next u ∧ u.out = some ou ∧
      exec (.writeDrain wd th) s = .next { u with
        out := some { status := s.status, consumer := om.consumer, wrDrop := ou.wrDrop } }

/-- The corner cases of WRITE_READ (45_cycle.md R115). -/
def Obligations.WriteReadCases : Prop :=
  ∀ (s : State) (wd : Byte), s.Ready →
    ∃ t o, exec (.writeRead wd) s = .next t ∧ t.out = some o ∧
      (s.occ = 0 → o.consumer.rdValid = false ∧ (2 ≤ s.params.capacity → t.occ = 1 ∧ t.live = [wd])) ∧
      (s.isFull = true → 2 ≤ s.params.capacity →
        o.consumer.rdValid = true ∧ some o.consumer.rdData = s.live.head? ∧ o.wrDrop = false ∧
        t.dropCount = s.dropCount ∧ t.occ = s.params.capacity - 1) ∧
      (s.occState = .PARTIAL → t.occ = s.occ ∧ t.live = s.live.tail ++ [wd]) ∧
      (s.params.capacity = 1 → o.consumer.rdValid = false ∧ o.wrDrop = true ∧ t.live = [] ∧
        t.dropCount = (s.dropCount + 1) % 2 ^ s.params.dropW ∧ t.stor.find 0 = some wd)

/-- The corner cases of WRITE_DRAIN (45_cycle.md R116). -/
def Obligations.WriteDrainCases : Prop :=
  ∀ (s : State) (wd : Byte) (th : Nat), s.Ready →
    ∃ t o, exec (.writeDrain wd th) s = .next t ∧ t.out = some o ∧
      (th ≤ s.occ → o.consumer.drainOk = true ∧ o.consumer.drainLen = s.occ ∧
        o.consumer.drainData.take s.occ = s.live ∧
        (2 ≤ s.params.capacity → t.live = [wd] ∧ o.wrDrop = false ∧ t.dropCount = s.dropCount)) ∧
      (s.occ < th → o.consumer.drainOk = false ∧
        ∃ u ou, exec (.write wd) s = .next u ∧ u.out = some ou ∧ o.wrDrop = ou.wrDrop ∧ o.wrDrop = s.isFull ∧
          t.head = u.head ∧ t.tail = u.tail ∧ t.stor = u.stor ∧ t.dropCount = u.dropCount) ∧
      (s.params.capacity = 1 →
        (o.consumer.drainOk = true ↔ th = 0) ∧ o.consumer.drainLen = 0 ∧ o.wrDrop = true)

/-- What a WRITE leaves live: with room, the old bytes and the new one as the newest; on a full buffer exactly the oldest
byte is lost, and it stays physically in its slot (41_write.md R73, R74, for `C >= 2`). -/
def Obligations.WriteLosesOnlyTheOldest : Prop :=
  ∀ (s : State) (wd : Byte), s.Ready → 2 ≤ s.params.capacity →
    ∃ t, exec (.write wd) s = .next t ∧
      (s.isFull = false → t.live = s.live ++ [wd]) ∧
      (s.isFull = true → t.live = s.live.tail ++ [wd] ∧ t.stor.find s.tail = s.stor.find s.tail)

/-- The degenerate capacity 1 (41_write.md R76): the indices stay 0, every WRITE drops, and no byte is ever live. -/
def Obligations.CapacityOneLosesEveryByte : Prop :=
  ∀ (s : State) (wd : Byte), s.Ready → s.params.capacity = 1 →
    s.head = 0 ∧ s.tail = 0 ∧ s.occ = 0 ∧
    ∃ t o, exec (.write wd) s = .next t ∧ t.out = some o ∧ t.head = 0 ∧ t.tail = 0 ∧
      t.dropCount = (s.dropCount + 1) % 2 ^ s.params.dropW ∧ o.wrDrop = true ∧
      t.stor.find 0 = some wd ∧ t.occ = 0 ∧ t.live = []

/-- When a DRAIN fires, threshold by threshold (44_drain.md R103). -/
def Obligations.DrainThresholdCases : Prop :=
  ∀ (s : State) (th : Nat), s.Ready →
    ∃ t o, exec (.drain th) s = .next t ∧ t.out = some o ∧
      (th = 0 → o.consumer.drainOk = true ∧ (s.occ = 0 → o.consumer.drainLen = 0)) ∧
      (1 ≤ th → th ≤ s.params.capacity - 1 → (o.consumer.drainOk = true ↔ th ≤ s.occ)) ∧
      (th = s.params.capacity - 1 → 2 ≤ s.params.capacity → (o.consumer.drainOk = true ↔ s.isFull = true)) ∧
      (s.params.capacity ≤ th → o.consumer.drainOk = false)

/-- The lanes of `drain_data`, and the bits they stand at (44_drain.md R104). -/
def Obligations.DrainDataLanes : Prop :=
  ∀ (s : State) (th : Nat), s.Ready →
    ∃ t o, exec (.drain th) s = .next t ∧ t.out = some o ∧
      o.consumer.drainData.length = s.params.capacity ∧
      o.consumer.drainLen ≤ s.params.capacity - 1 ∧
      (∀ i < o.consumer.drainLen,
        o.consumer.drainData[i]? = s.stor.find ((s.tail + i) % s.params.capacity)) ∧
      (∀ i < s.params.capacity, o.consumer.drainLen ≤ i → o.consumer.drainData[i]? = some 0x00) ∧
      o.consumer.drainData[s.params.capacity - 1]? = some 0x00 ∧
      (o.consumer.drainOk = false → ∀ i < s.params.capacity, o.consumer.drainData[i]? = some 0x00) ∧
      ∀ i < s.params.capacity,
        o.consumer.drainData[i]? =
          some (BitVec.ofNat 8 (slice (lanesValue o.consumer.drainData) (8 * i + 7) (8 * i)))

/-- Where the operations stop, all outside the invariant: the model's own faults for a slot that nothing has written and for a slot
that does not exist (logs 7 and 8; 92_eei_decisions.md D25). -/
def Obligations.FaultsOutsideTheInvariant : Prop :=
  ∀ (s : State) (wd : Byte) (th : Nat), s.phase = .running →
    (s.head ≠ s.tail → s.tail < s.params.capacity → s.stor.find s.tail = none →
      exec .read s = .fault (.unwrittenSlot s.tail) ∧
      exec (.writeRead wd) s = .fault (.unwrittenSlot s.tail)) ∧
    (s.head ≠ s.tail → s.params.capacity ≤ s.tail →
      exec .read s = .fault (.noSuchSlot s.tail) ∧ exec (.writeRead wd) s = .fault (.noSuchSlot s.tail)) ∧
    (s.params.capacity ≤ s.head →
      exec (.write wd) s = .fault (.noSuchSlot s.head) ∧ exec (.writeRsv wd) s = .fault (.noSuchSlot s.head)) ∧
    (th ≤ s.occ → ¬s.LiveWritten →
      ∃ a ∈ s.liveSlots, s.stor.find a = none ∧
        exec (.drain th) s = .fault (.unwrittenSlot a) ∧ exec (.writeDrain wd th) s = .fault (.unwrittenSlot a))

/-! ### Frames and whole-block rules -/

/-- Only an operation with a WRITE changes the storage, only at `head`, and with the byte on `wr_data`; no operation changes the
parameters or the coming stimulus (10_state.md R22). -/
def Obligations.OnlyWriteStores : Prop :=
  ∀ (i : Instr) (s t : State), exec i s = .next t →
    t.params = s.params ∧ t.stimulus = s.stimulus ∧
    (∀ wd, producerOf i = some wd →
      t.stor.find s.head = some wd ∧ ∀ a, a ≠ s.head → t.stor.find a = s.stor.find a) ∧
    (producerOf i = none → ∀ a, t.stor.find a = s.stor.find a)

/-- Which operations move `head` and `tail` (10_state.md R20): `head` moves by `inc` on a WRITE and by RESET; `tail` moves on a
READ, a DRAIN, a WRITE that drops, and RESET. -/
def Obligations.IndicesMoveOnlyAsNamed : Prop :=
  ∀ (i : Instr) (s t : State), exec i s = .next t →
    (i ≠ .reset → t.head = if (producerOf i).isSome then (s.head + 1) % s.params.capacity else s.head) ∧
    (t.tail ≠ s.tail →
      i = .reset ∨ consumerOf i = .read ∨ (∃ th, consumerOf i = .drain th ∧ th ≤ s.occ) ∨
      ∃ o, t.out = some o ∧ o.wrDrop = true)

/-- The drop counter (10_state.md R23): it counts drop events modulo `2^DROP_W`, RESET sets it to 0, no operation writes it
otherwise, and it is shown in every cycle. -/
def Obligations.DropCounterCountsDrops : Prop :=
  ∀ (i : Instr) (s t : State), exec i s = .next t →
    ∃ o, t.out = some o ∧
      (i = .reset → t.dropCount = 0) ∧
      (i ≠ .reset → o.wrDrop = true → t.dropCount = (s.dropCount + 1) % 2 ^ s.params.dropW) ∧
      (i ≠ .reset → o.wrDrop = false → t.dropCount = s.dropCount) ∧
      (s.phase = .running → o.status.dropCount = s.dropCount)

/-- A response output that no operation of the cycle drives is zero, whatever was recorded before (45_cycle.md R112). -/
def Obligations.UndrivenResponsesAreZero : Prop :=
  ∀ (i : Instr) (s t : State), exec i s = .next t →
    ∃ o, t.out = some o ∧
      (consumerOf i ≠ .read → o.consumer.rdValid = false ∧ o.consumer.rdData = 0x00) ∧
      ((∀ th, consumerOf i ≠ .drain th) →
        o.consumer.drainOk = false ∧ o.consumer.drainLen = 0 ∧
        o.consumer.drainData = List.replicate s.params.capacity 0x00) ∧
      (producerOf i = none → o.wrDrop = false)

/-- Every output fits its port (30_encoding.md R51, 00_scope.md R8). -/
def Obligations.OutputsFitTheirPorts : Prop :=
  ∀ (i : Instr) (s : State), s.Ready →
    ∃ t o, exec i s = .next t ∧ t.out = some o ∧
      o.status.occupancy < 2 ^ s.params.occW ∧ o.status.dropCount < 2 ^ s.params.dropW ∧
      o.consumer.drainLen < 2 ^ s.params.occW ∧ o.consumer.drainData.length = s.params.lanes ∧
      lanesValue o.consumer.drainData < 2 ^ (8 * s.params.capacity)

/-- The occupancy after every operation and its `wr_drop` (43_occupancy.md R94). -/
def Obligations.OccupancyTransitions : Prop :=
  ∀ (s : State) (b : Byte) (th : Nat), s.Ready →
    let c := s.params.capacity
    let goes := fun (i : Instr) (n : Nat) (drop : Bool) =>
      ∃ t o, exec i s = .next t ∧ t.out = some o ∧ t.occ = n ∧ o.wrDrop = drop
    goes .nop s.occ false ∧ goes .rsv s.occ false ∧
    goes (.write b) (min (s.occ + 1) (c - 1)) (decide (s.occ = c - 1)) ∧
    goes (.writeRsv b) (min (s.occ + 1) (c - 1)) (decide (s.occ = c - 1)) ∧
    goes .read (max (s.occ - 1) 0) false ∧
    goes (.writeRead b) (min (max (s.occ - 1) 0 + 1) (c - 1)) (decide (max (s.occ - 1) 0 = c - 1)) ∧
    (th ≤ s.occ → goes (.drain th) 0 false) ∧
    (s.occ < th → goes (.drain th) s.occ false) ∧
    (th ≤ s.occ → goes (.writeDrain b th) (min 1 (c - 1)) (decide (c = 1))) ∧
    (s.occ < th → goes (.writeDrain b th) (min (s.occ + 1) (c - 1)) (decide (s.occ = c - 1))) ∧
    goes .reset 0 false

/-- The transitions of the occupancy state machine, with the cycles that drop, for `C >= 3`, `C = 2` and `C = 1`
(43_occupancy.md R95). -/
def Obligations.OccupancyStateTransitions : Prop :=
  ∀ (s : State) (b : Byte) (th : Nat), s.Ready →
    let c := s.params.capacity
    let goes := fun (i : Instr) (x : OccState) (drop : Bool) =>
      ∃ t o, exec i s = .next t ∧ t.out = some o ∧ t.occState = x ∧ o.wrDrop = drop
    (3 ≤ c →
      (goes .nop s.occState false ∧ goes .rsv s.occState false ∧ goes .reset .EMPTY false ∧
        (th ≤ s.occ → goes (.drain th) .EMPTY false ∧ goes (.writeDrain b th) .PARTIAL false) ∧
        (s.occ < th → goes (.drain th) s.occState false)) ∧
      (s.occState = .EMPTY →
        goes (.write b) .PARTIAL false ∧ goes .read .EMPTY false ∧ goes (.writeRead b) .PARTIAL false ∧
        (s.occ < th → goes (.writeDrain b th) .PARTIAL false) ∧
        (∃ t o, exec .read s = .next t ∧ t.out = some o ∧ o.consumer.rdValid = false) ∧
        (∃ t o, exec (.writeRead b) s = .next t ∧ t.out = some o ∧ o.consumer.rdValid = false) ∧
        (th ≤ s.occ → th = 0 ∧ ∃ t o, exec (.drain th) s = .next t ∧ t.out = some o ∧ o.consumer.drainLen = 0)) ∧
      (s.occState = .PARTIAL →
        goes (.writeRead b) .PARTIAL false ∧
        goes (.write b) (if s.occ < c - 2 then .PARTIAL else .FULL) false ∧
        goes .read (if 2 ≤ s.occ then .PARTIAL else .EMPTY) false ∧
        (s.occ < th → goes (.writeDrain b th) (if s.occ < c - 2 then .PARTIAL else .FULL) false)) ∧
      (s.occState = .FULL →
        goes (.write b) .FULL true ∧ goes .read .PARTIAL false ∧ goes (.writeRead b) .FULL false ∧
        (s.occ < th → goes (.writeDrain b th) .FULL true))) ∧
    (c = 2 →
      (s.occState = .EMPTY → goes (.write b) .FULL false ∧ goes (.writeRead b) .FULL false) ∧
      (s.occState = .FULL →
        goes (.write b) .FULL true ∧ goes .read .EMPTY false ∧ goes (.writeRead b) .FULL false) ∧
      (th ≤ s.occ → goes (.drain th) .EMPTY false ∧ goes (.writeDrain b th) .FULL false)) ∧
    (c = 1 → ∀ i : Instr, goes i .EMPTY (producerOf i).isSome)

/-! ### Invariants, refinement and runs -/

/-- The invariant holds at reset, on every instance. -/
def Obligations.ResetIsReady : Prop :=
  State.reset.Ready ∧ ∀ p : Params, (State.resetFor p).Ready

/-- Every step keeps the invariant: the storage stays in canonical form over the slots that exist, the indices and the drop
counter stay in range (10_state.md R21, R20), and every live slot has been written (10_state.md R30); a step also keeps
the parameters, and no step leaves the reset block. -/
def Obligations.StepKeepsInvariant : Prop :=
  ∀ s t : State, s.Inv → step s = .next t →
    t.Inv ∧ t.params = s.params ∧ t.phase = .running

/-- No admitted cycle faults, stalls or is refused (45_cycle.md R119, 60_exceptions.md R131): from every state of the invariant,
an admitted cycle word is performed, and no step whatever faults. -/
def Obligations.EveryAdmittedCycleCompletes : Prop :=
  (∀ (s : State) (f : Fault), s.Inv → step s ≠ .fault f) ∧
  (∀ (i : Instr) (s : State), s.Ready → ∃ t, exec i s = .next t ∧ t.Ready) ∧
  ∀ (s : State) (cw : Nat) (rest : List Nat), s.Inv → s.stimulus = cw :: rest → cw < 2 ^ s.params.cwW →
    (s.phase = .running ∨ cw.testBit 11 = true) →
    ∃ t, step s = .next t ∧ t.stimulus = rest ∧ t.Ready

/-- The circular buffer refines the list model of 45_cycle.md R121: every operation drives the outputs the list model gives and
leaves the live bytes and drop counter it gives. -/
def Obligations.CircularBufferRefinesList : Prop :=
  ∀ (i : Instr) (s : State), s.Ready →
    s.abs.live.length ≤ s.params.capacity - 1 ∧
    ∃ t, exec i s = .next t ∧ t.Ready ∧ t.params = s.params ∧
      t.out = some (ListState.step s.params s.abs i).1 ∧ t.abs = (ListState.step s.params s.abs i).2

/-- The list of live bytes, of at most `C - 1`, and the drop counter are the whole observable state (10_state.md R29): two states
of one instance that agree on them drive equal outputs in every cycle of every stimulus. -/
def Obligations.ListAndCounterDecideOutputs : Prop :=
  (∀ s : State, s.Ready → s.live.length ≤ s.params.capacity - 1) ∧
  ∀ (k : Nat) (s u t : State), s.Ready → u.Ready → s.params = u.params → s.abs = u.abs →
    s.stimulus = u.stimulus → RunsTo (k + 1) s t →
    ∃ v, RunsTo (k + 1) u v ∧ v.out = t.out ∧ v.abs = t.abs

/-- The overwrite law (45_cycle.md R122 item 3): after `C - 1` or more consecutive WRITE cycles the live bytes are exactly the last
`C - 1` bytes written, whatever was live before. -/
def Obligations.OverwriteKeepsTheNewest : Prop :=
  ∀ (s : State) (bytes : List Byte), s.Ready → s.params.capacity - 1 ≤ bytes.length →
    ∃ t, RunsTo bytes.length (s.under (bytes.map fun b => 0x100 + b.toNat)) t ∧
      t.live = bytes.drop (bytes.length - (s.params.capacity - 1))

/-- First in, first out (45_cycle.md R122 item 2): bytes written into an empty buffer that can hold them, all before the
first READ, are returned by the READs that follow, in the order they were written. -/
def Obligations.FirstInFirstOut : Prop :=
  ∀ (s : State) (bytes : List Byte) (k : Nat), s.Ready → s.live = [] →
    bytes.length ≤ s.params.capacity - 1 → k < bytes.length →
    ∃ t o, RunsTo (bytes.length + (k + 1))
        (s.under ((bytes.map fun b => 0x100 + b.toNat) ++ List.replicate (k + 1) 0x200)) t ∧
      t.out = some o ∧ o.consumer.rdValid = true ∧ some o.consumer.rdData = bytes[k]? ∧
      t.live = bytes.drop (k + 1)

/-- Check-then-act is safe for counts (70_reset_and_hazards.md R159): a consumer that sees `occupancy = k` and presents a READ in
each of the next `k` cycles, with or without a WRITE beside it, gets a byte in every one of them. -/
def Obligations.SeenBytesCanBeRead : Prop :=
  ∀ (s : State) (words : List Nat), s.Ready → words ≠ [] → words.length ≤ s.occ →
    (∀ w ∈ words, decode s.params w = .ok .read ∨ ∃ b, decode s.params w = .ok (.writeRead b)) →
    ∃ t o, RunsTo words.length (s.under words) t ∧ t.out = some o ∧ o.consumer.rdValid = true

/-- Any number of READs on an empty buffer return nothing and change nothing (42_read.md R83). -/
def Obligations.EmptyReadsChangeNothing : Prop :=
  ∀ (s : State) (k : Nat), s.phase = .running → s.head = s.tail →
    ∃ t o, RunsTo (k + 1) (s.under (List.replicate (k + 1) 0x200)) t ∧ t.out = some o ∧
      o.consumer.rdValid = false ∧ o.consumer.rdData = 0x00 ∧
      t.head = s.head ∧ t.tail = s.tail ∧ t.stor = s.stor ∧ t.dropCount = s.dropCount

/-- Write-to-read latency (70_reset_and_hazards.md R156): on an empty buffer the READ of the writing cycle returns nothing, and the
byte is live from the next cycle on, where a READ returns it. -/
def Obligations.WrittenByteReadInNextCycle : Prop :=
  ∀ (s : State) (b : Byte), s.Ready → s.live = [] → 2 ≤ s.params.capacity →
    (∃ t o, RunsTo 1 (s.under [0x300 + b.toNat]) t ∧ t.out = some o ∧
      o.consumer.rdValid = false ∧ o.consumer.rdData = 0x00 ∧ t.live = [b]) ∧
    ∃ t o, RunsTo 2 (s.under [0x300 + b.toNat, 0x200]) t ∧ t.out = some o ∧
      o.consumer.rdValid = true ∧ o.consumer.rdData = b ∧ t.live = []

/-- Conservation of bytes in one cycle (45_cycle.md R122 item 2): the bytes live before it, followed by the byte it writes, are
in this order the bytes it returns, the byte it drops, if any, and the bytes live after it. -/
def Obligations.CycleKeepsBytesInOrder : Prop :=
  ∀ (i : Instr) (s : State), s.Ready → i ≠ .reset →
    ∃ t o lost, exec i s = .next t ∧ t.out = some o ∧
      lost.length = (if o.wrDrop then 1 else 0) ∧
      s.live ++ (producerOf i).toList = o.returned ++ lost ++ t.live

/-- First in, first out with drops (45_cycle.md R122 item 2): over any operations but RESET, in any order, the bytes returned and
then those still live are the bytes live at the start and then those written, in this order, with exactly as many left out
as there were drop events; none is left out where there was none. -/
def Obligations.ReturnedBytesAreInWriteOrder : Prop :=
  ∀ (s : State) (is : List Instr), s.Ready → .reset ∉ is →
    ∃ outs t, s.perform is = some (outs, t) ∧ outs.length = is.length ∧
      (bytesReturned outs ++ t.live).Sublist (s.live ++ bytesWritten is) ∧
      (bytesReturned outs).length + t.live.length + dropEvents outs = s.live.length + (bytesWritten is).length ∧
      (dropEvents outs = 0 → bytesReturned outs ++ t.live = s.live ++ bytesWritten is) ∧
      t.dropCount = (s.dropCount + dropEvents outs) % 2 ^ s.params.dropW

/-- Capacity and monotonicity (45_cycle.md R122 items 1 and 6): in every cycle the occupancy shown is at most `C - 1`; only READ, a
firing DRAIN and RESET decrease the number of live bytes, and only an operation with a WRITE increases it, by one at most. -/
def Obligations.OccupancyMovesOnlyAsNamed : Prop :=
  ∀ (i : Instr) (s : State), s.Ready →
    ∃ t o, exec i s = .next t ∧ t.out = some o ∧ o.status.occupancy ≤ s.params.capacity - 1 ∧
      t.live.length ≤ s.live.length + 1 ∧
      (t.live.length < s.live.length →
        i = .reset ∨ consumerOf i = .read ∨ ∃ th, consumerOf i = .drain th ∧ o.consumer.drainOk = true) ∧
      (s.live.length < t.live.length → (producerOf i).isSome)
end

