-- ==== Sys2Proof/Laws/Widths.lean ====
section
/-! SUPPORT. What the width search answers, and the field of the cycle word it sizes. -/

namespace Sys2Proof

theorem clog2From_spec (n : Nat) : ∀ fuel k, n ≤ 2 ^ (k + fuel) → (∀ j < k, 2 ^ j < n) →
    n ≤ 2 ^ clog2From n fuel k ∧ ∀ j < clog2From n fuel k, 2 ^ j < n := by
  intro fuel
  induction fuel with
  | zero => intro k hk hlt; exact ⟨hk, hlt⟩
  | succ fuel ih =>
    intro k hk hlt
    unfold clog2From
    split
    · exact ⟨‹_›, hlt⟩
    · refine ih (k + 1) (by rwa [Nat.add_right_comm, Nat.add_assoc]) fun j hj => ?_
      rcases Nat.lt_succ_iff_lt_or_eq.mp hj with h | h
      · exact hlt j h
      · subst h; omega

/-- The answer of `clog2` is large enough, and every smaller exponent is too small. -/
theorem clog2_spec (n : Nat) : n ≤ 2 ^ clog2 n ∧ ∀ j < clog2 n, 2 ^ j < n :=
  clog2From_spec n n 0 (by simpa using Nat.lt_two_pow_self.le) (by simp)

/-- The capacity itself fits the threshold field (30_encoding.md R55). -/
theorem capacity_lt_thW (p : Params) : p.capacity < 2 ^ p.thW := (clog2_spec (p.capacity + 1)).1

theorem thW_pos (p : Params) : 0 < p.thW := by
  rcases Nat.eq_zero_or_pos p.thW with h | h
  · have := capacity_lt_thW p; have := p.capacity_pos; simp [h] at *; omega
  · exact h

theorem cwW_eq (p : Params) : p.cwW = 12 + p.thW := rfl

theorem two_pow_cwW (p : Params) : 2 ^ p.cwW = 4096 * 2 ^ p.thW := by rw [cwW_eq, Nat.pow_add]

end Sys2Proof
end

