-- ==== Sys2Proof/Laws/Decode.lean ====
section
/-! SUPPORT. What unpacking and packing a cycle word give, in plain arithmetic. -/

namespace Sys2Proof

theorem slice_lt (v hi lo : Nat) : slice v hi lo < 2 ^ (hi + 1 - lo) := Nat.mod_lt _ (by positivity)

@[simp] theorem unpack_wrData (p : Params) (cw : Nat) :
    (Inputs.unpack p cw).wrData = BitVec.ofNat 8 (cw % 256) := by simp [Inputs.unpack, slice]
@[simp] theorem unpack_wrEn (p : Params) (cw : Nat) :
    (Inputs.unpack p cw).wrEn = (cw / 256 % 2 == 1) := by simp [Inputs.unpack, slice]
@[simp] theorem unpack_cmd (p : Params) (cw : Nat) :
    (Inputs.unpack p cw).cmd = Cmd.ofBits (cw / 512 % 4) := by simp [Inputs.unpack, slice]
@[simp] theorem unpack_rst (p : Params) (cw : Nat) :
    (Inputs.unpack p cw).rst = (cw / 2048 % 2 == 1) := by simp [Inputs.unpack, slice]
@[simp] theorem unpack_th (p : Params) (cw : Nat) :
    (Inputs.unpack p cw).th = cw / 4096 % 2 ^ p.thW := by
  simp [Inputs.unpack, slice]

/-- A packed word in plain arithmetic: `(t << 12) | (RST << 11) | (CMD << 9) | (W << 8) | b`
(30_encoding.md R59). -/
theorem pack_eq (x : Inputs) :
    x.pack = 4096 * x.th + 2048 * x.rst.toNat + 512 * x.cmd.toBits + 256 * x.wrEn.toNat + x.wrData.toNat := by
  simp only [Inputs.pack, concat]; ring

@[simp] theorem ofBits_toBits (c : Cmd) : Cmd.ofBits c.toBits = c := by cases c <;> rfl

theorem toBits_lt (c : Cmd) : c.toBits < 4 := by cases c <;> decide

/-- A packed word is a cycle word when its threshold fits. -/
theorem pack_lt (p : Params) (x : Inputs) (h : x.th < 2 ^ p.thW) : x.pack < 2 ^ p.cwW := by
  have := toBits_lt x.cmd
  have := x.wrData.isLt
  have := x.rst.toNat_le
  have := x.wrEn.toNat_le
  rw [pack_eq, two_pow_cwW]
  omega

/-- The decoder on a cycle word, and on a wider number: the whole of what it answers. -/
theorem decode_of_lt (p : Params) {cw : Nat} (h : cw < 2 ^ p.cwW) :
    decode p cw = .ok (Inputs.unpack p cw).instr := by simp [decode, h]

theorem decode_of_ge (p : Params) {cw : Nat} (h : 2 ^ p.cwW ≤ cw) : decode p cw = .error .notACycleWord := by
  simp [decode, Nat.not_lt.mpr h]

theorem lt_of_decode (p : Params) {cw : Nat} {i : Instr} (h : decode p cw = .ok i) :
    cw < 2 ^ p.cwW ∧ i = (Inputs.unpack p cw).instr := by
  unfold decode at h
  split at h
  · exact ⟨‹_›, by simpa using h.symm⟩
  · cases h

end Sys2Proof
end

