-- ==== Sys2Proof/Laws/Flags.lean ====
section
/-! SUPPORT. The occupancy formula of 10_state.md R24 in natural-number arithmetic, and how the occupancy and `inc` meet. -/

namespace Sys2Proof.Machine

theorem inc_lt (p : Params) (i : Nat) : inc p i < p.capacity := Nat.mod_lt _ p.capacity_pos

theorem inc_of_lt (p : Params) {i : Nat} (h : i + 1 < p.capacity) : inc p i = i + 1 := Nat.mod_eq_of_lt h

theorem inc_last (p : Params) {i : Nat} (h : i + 1 = p.capacity) : inc p i = 0 := by simp [inc, h]

/-- The occupancy where the live range does not wrap. -/
theorem occ_of_le (s : State) (hh : s.head < s.params.capacity) (h : s.tail ≤ s.head) :
    s.occ = s.head - s.tail := by
  have e : ((s.head : Int) - s.tail + s.params.capacity) % (s.params.capacity : Int) = ((s.head - s.tail : Nat) : Int) := by
    rw [Int.add_emod_right, ← Int.ofNat_sub h]
    exact Int.emod_eq_of_lt (by omega) (by omega)
  rw [State.occ, e]; rfl

/-- The occupancy where the live range wraps. -/
theorem occ_of_lt (s : State) (ht : s.tail < s.params.capacity) (h : s.head < s.tail) :
    s.occ = s.head + s.params.capacity - s.tail := by
  have e : ((s.head : Int) - s.tail + s.params.capacity) % (s.params.capacity : Int) =
      ((s.head + s.params.capacity - s.tail : Nat) : Int) := by
    rw [Int.emod_eq_of_lt (by omega) (by omega)]; omega
  rw [State.occ, e]; rfl

/-- Both cases at once, in a form `omega` can use. -/
theorem occ_cases (s : State) (hh : s.head < s.params.capacity) (ht : s.tail < s.params.capacity) :
    (s.tail ≤ s.head ∧ s.occ = s.head - s.tail) ∨
      (s.head < s.tail ∧ s.occ = s.head + s.params.capacity - s.tail) := by
  rcases Nat.lt_or_ge s.head s.tail with h | h
  · exact .inr ⟨h, occ_of_lt s ht h⟩
  · exact .inl ⟨h, occ_of_le s hh h⟩

/-- `inc` in a form `omega` can use. -/
theorem inc_cases (p : Params) {i : Nat} (h : i < p.capacity) :
    (i + 1 < p.capacity ∧ inc p i = i + 1) ∨ (i + 1 = p.capacity ∧ inc p i = 0) := by
  rcases Nat.lt_or_ge (i + 1) p.capacity with h' | h'
  · exact .inl ⟨h', inc_of_lt p h'⟩
  · exact .inr ⟨by omega, inc_last p (by omega)⟩

end Sys2Proof.Machine
end

