-- ==== Sys2Proof/Laws/State.lean ====
section
/-! SUPPORT. The small lemmas of the state: each field after each named update, and the functions of the state that do not
look at the recorded outputs or the stimulus. -/

namespace Sys2Proof.Machine

variable (s : State) (p : Params) (ws : List Nat)

@[simp] theorem resetFor_params : (State.resetFor p).params = p := rfl
@[simp] theorem resetFor_phase : (State.resetFor p).phase = .running := rfl
@[simp] theorem resetFor_head : (State.resetFor p).head = 0 := rfl
@[simp] theorem resetFor_tail : (State.resetFor p).tail = 0 := rfl
@[simp] theorem resetFor_stor : (State.resetFor p).stor = [] := rfl
@[simp] theorem resetFor_dropCount : (State.resetFor p).dropCount = 0 := rfl
@[simp] theorem resetFor_stimulus : (State.resetFor p).stimulus = [] := rfl
@[simp] theorem resetFor_out : (State.resetFor p).out = none := rfl

@[simp] theorem resetEdge_params : s.resetEdge.params = s.params := rfl
@[simp] theorem resetEdge_phase : s.resetEdge.phase = .running := rfl
@[simp] theorem resetEdge_head : s.resetEdge.head = 0 := rfl
@[simp] theorem resetEdge_tail : s.resetEdge.tail = 0 := rfl
@[simp] theorem resetEdge_stor : s.resetEdge.stor = s.stor := rfl
@[simp] theorem resetEdge_dropCount : s.resetEdge.dropCount = 0 := rfl
@[simp] theorem resetEdge_stimulus : s.resetEdge.stimulus = s.stimulus := rfl
@[simp] theorem resetEdge_out :
    s.resetEdge.out =
      some { status := s.status, consumer := ConsumerOut.zero s.params, wrDrop := false } := rfl

@[simp] theorem under_params : (s.under ws).params = s.params := rfl
@[simp] theorem under_phase : (s.under ws).phase = s.phase := rfl
@[simp] theorem under_head : (s.under ws).head = s.head := rfl
@[simp] theorem under_tail : (s.under ws).tail = s.tail := rfl
@[simp] theorem under_stor : (s.under ws).stor = s.stor := rfl
@[simp] theorem under_dropCount : (s.under ws).dropCount = s.dropCount := rfl
@[simp] theorem under_stimulus : (s.under ws).stimulus = ws := rfl
@[simp] theorem under_out : (s.under ws).out = s.out := rfl
@[simp] theorem under_under (vs : List Nat) : (s.under ws).under vs = s.under vs := rfl
@[simp] theorem under_occ : (s.under ws).occ = s.occ := rfl
@[simp] theorem under_liveSlots : (s.under ws).liveSlots = s.liveSlots := rfl
@[simp] theorem under_live : (s.under ws).live = s.live := rfl
@[simp] theorem under_abs : (s.under ws).abs = s.abs := rfl
@[simp] theorem under_status : (s.under ws).status = s.status := rfl

theorem under_inv : (s.under ws).Inv ↔ s.Inv := Iff.rfl
theorem under_ready : (s.under ws).Ready ↔ s.Ready := Iff.rfl

@[simp] theorem popped_params : (s.popped).params = s.params := rfl
@[simp] theorem popped_phase : (s.popped).phase = s.phase := rfl
@[simp] theorem popped_head : (s.popped).head = s.head := rfl
@[simp] theorem popped_tail : (s.popped).tail = inc s.params s.tail := rfl
@[simp] theorem popped_stor : (s.popped).stor = s.stor := rfl
@[simp] theorem popped_dropCount : (s.popped).dropCount = s.dropCount := rfl
@[simp] theorem popped_stimulus : (s.popped).stimulus = s.stimulus := rfl
@[simp] theorem popped_out : (s.popped).out = s.out := rfl

@[simp] theorem drained_params : (s.drained).params = s.params := rfl
@[simp] theorem drained_phase : (s.drained).phase = s.phase := rfl
@[simp] theorem drained_head : (s.drained).head = s.head := rfl
@[simp] theorem drained_tail : (s.drained).tail = s.head := rfl
@[simp] theorem drained_stor : (s.drained).stor = s.stor := rfl
@[simp] theorem drained_dropCount : (s.drained).dropCount = s.dropCount := rfl
@[simp] theorem drained_stimulus : (s.drained).stimulus = s.stimulus := rfl
@[simp] theorem drained_out : (s.drained).out = s.out := rfl

@[simp] theorem pushed_params (b : Byte) : (s.pushed b).params = s.params := rfl
@[simp] theorem pushed_phase (b : Byte) : (s.pushed b).phase = s.phase := rfl
@[simp] theorem pushed_head (b : Byte) : (s.pushed b).head = inc s.params s.head := rfl
@[simp] theorem pushed_tail (b : Byte) : (s.pushed b).tail = if s.isFull then inc s.params s.tail else s.tail := rfl
@[simp] theorem pushed_stor (b : Byte) : (s.pushed b).stor = s.stor.store s.head b := rfl
@[simp] theorem pushed_dropCount (b : Byte) : (s.pushed b).dropCount =
      if s.isFull then (s.dropCount + 1) % 2 ^ s.params.dropW else s.dropCount := rfl
@[simp] theorem pushed_stimulus (b : Byte) : (s.pushed b).stimulus = s.stimulus := rfl
@[simp] theorem pushed_out (b : Byte) : (s.pushed b).out = s.out := rfl

@[simp] theorem driving_params (o : Outputs) : (s.driving o).params = s.params := rfl
@[simp] theorem driving_phase (o : Outputs) : (s.driving o).phase = s.phase := rfl
@[simp] theorem driving_head (o : Outputs) : (s.driving o).head = s.head := rfl
@[simp] theorem driving_tail (o : Outputs) : (s.driving o).tail = s.tail := rfl
@[simp] theorem driving_stor (o : Outputs) : (s.driving o).stor = s.stor := rfl
@[simp] theorem driving_dropCount (o : Outputs) : (s.driving o).dropCount = s.dropCount := rfl
@[simp] theorem driving_stimulus (o : Outputs) : (s.driving o).stimulus = s.stimulus := rfl
@[simp] theorem driving_out (o : Outputs) : (s.driving o).out = some o := rfl

@[simp] theorem driving_occ (o : Outputs) : (s.driving o).occ = s.occ := rfl
@[simp] theorem driving_isEmpty (o : Outputs) : (s.driving o).isEmpty = s.isEmpty := rfl
@[simp] theorem driving_isFull (o : Outputs) : (s.driving o).isFull = s.isFull := rfl
@[simp] theorem driving_liveSlots (o : Outputs) : (s.driving o).liveSlots = s.liveSlots := rfl
@[simp] theorem driving_live (o : Outputs) : (s.driving o).live = s.live := rfl
@[simp] theorem driving_abs (o : Outputs) : (s.driving o).abs = s.abs := rfl
@[simp] theorem driving_status (o : Outputs) : (s.driving o).status = s.status := rfl

theorem driving_inv (o : Outputs) : (s.driving o).Inv ↔ s.Inv := Iff.rfl
theorem driving_ready (o : Outputs) : (s.driving o).Ready ↔ s.Ready := Iff.rfl

@[simp] theorem withFetchWord_stimulus (nbits w : Nat) :
    (s.withFetchWord nbits w).stimulus = w % 2 ^ nbits :: s.stimulus.drop 1 := rfl
@[simp] theorem withFetchWord_params (nbits w : Nat) : (s.withFetchWord nbits w).params = s.params := rfl
@[simp] theorem withFetchWord_abs (nbits w : Nat) : (s.withFetchWord nbits w).abs = s.abs := rfl

@[simp] theorem status_running (h : s.phase = .running) : s.status = s.statusRunning := by
  simp [State.status, h]
@[simp] theorem status_unreset (h : s.phase = .unreset) : s.status = s.statusUnreset := by
  simp [State.status, h]

@[simp] theorem zero_rdValid : (ConsumerOut.zero p).rdValid = false := rfl
@[simp] theorem zero_rdData : (ConsumerOut.zero p).rdData = 0 := rfl
@[simp] theorem zero_drainOk : (ConsumerOut.zero p).drainOk = false := rfl
@[simp] theorem zero_drainLen : (ConsumerOut.zero p).drainLen = 0 := rfl
@[simp] theorem zero_drainData : (ConsumerOut.zero p).drainData = List.replicate p.capacity 0 := by
  simp [ConsumerOut.zero, drainLanes, Params.lanes]

end Sys2Proof.Machine
end

