-- ==== Sys2Proof/Laws/Live.lean ====
section
/-! SUPPORT. How the occupancy and the list of live slots move with `head` and `tail` (10_state.md R24, R28). -/

namespace Sys2Proof.Machine

theorem occ_congr {s t : State} (hp : t.params = s.params) (hh : t.head = s.head) (ht : t.tail = s.tail) :
    t.occ = s.occ := by simp [State.occ, hp, hh, ht]

theorem liveSlots_congr {s t : State} (hp : t.params = s.params) (hh : t.head = s.head) (ht : t.tail = s.tail) :
    t.liveSlots = s.liveSlots := by simp [State.liveSlots, occ_congr hp hh ht, hp, ht]

@[simp] theorem liveSlots_length (s : State) : s.liveSlots.length = s.occ := by simp [State.liveSlots]

theorem liveSlots_of_occ_zero (s : State) (h : s.occ = 0) : s.liveSlots = [] := by simp [State.liveSlots, h]

theorem lt_of_mem_liveSlots {s : State} {a : Nat} (h : a ∈ s.liveSlots) : a < s.params.capacity := by
  simp only [State.liveSlots, List.mem_map] at h
  obtain ⟨i, -, rfl⟩ := h
  exact Nat.mod_lt _ s.params.capacity_pos

/-- A remainder of less than twice the modulus, in a form `omega` can use. -/
theorem mod_cases {a c : Nat} (h : a < 2 * c) : (a < c ∧ a % c = a) ∨ (c ≤ a ∧ a % c = a - c) := by
  rcases Nat.lt_or_ge a c with h' | h'
  · exact .inl ⟨h', Nat.mod_eq_of_lt h'⟩
  · exact .inr ⟨h', by rw [Nat.mod_eq_sub_mod h', Nat.mod_eq_of_lt (by omega)]⟩

/-- A successful READ takes one from the occupancy (42_read.md R84). -/
theorem occ_popped (s : State) (hh : s.head < s.params.capacity) (ht : s.tail < s.params.capacity)
    (hne : s.head ≠ s.tail) : s.popped.occ + 1 = s.occ := by
  have h1 := occ_cases s hh ht
  have h2 := occ_cases s.popped hh (inc_lt _ _)
  have h3 := inc_cases s.params ht
  simp only [popped_head, popped_tail, popped_params] at h2
  omega

/-- A firing DRAIN leaves nothing live (44_drain.md R106). -/
theorem occ_drained (s : State) : s.drained.occ = 0 := by simp [State.occ]

/-- A WRITE with room adds one to the occupancy (41_write.md R73). -/
theorem occ_pushed_of_room (s : State) (b : Byte) (hh : s.head < s.params.capacity)
    (ht : s.tail < s.params.capacity) (hf : s.isFull = false) : (s.pushed b).occ = s.occ + 1 := by
  have h1 := occ_cases s hh ht
  have h2 := occ_cases (s.pushed b) (inc_lt _ _) (by simpa [hf] using ht)
  have h3 := inc_cases s.params hh
  have h4 : inc s.params s.head ≠ s.tail := by simpa [State.isFull] using hf
  simp only [pushed_head, pushed_tail, pushed_params, hf, Bool.false_eq_true, if_false] at h2
  omega

/-- The live slots before a successful READ: the slot at `tail`, then those after it. -/
theorem liveSlots_eq_cons_popped (s : State) (hh : s.head < s.params.capacity) (ht : s.tail < s.params.capacity)
    (hne : s.head ≠ s.tail) : s.liveSlots = s.tail :: s.popped.liveSlots := by
  unfold State.liveSlots
  rw [← occ_popped s hh ht hne, List.range_succ_eq_map, List.map_cons, List.map_map]
  congr 1
  · simp [Nat.mod_eq_of_lt ht]
  · refine List.map_congr_left fun i _ => ?_
    simp [inc, Nat.add_assoc, Nat.add_comm 1 i]

/-- The live slots after a WRITE with room: those before it, then the slot at `head`. -/
theorem liveSlots_pushed_of_room (s : State) (b : Byte) (hh : s.head < s.params.capacity)
    (ht : s.tail < s.params.capacity) (hf : s.isFull = false) :
    (s.pushed b).liveSlots = s.liveSlots ++ [s.head] := by
  have h1 := occ_cases s hh ht
  have h2 : s.tail + s.occ < 2 * s.params.capacity := by omega
  have h3 := mod_cases h2
  have h4 : (s.tail + s.occ) % s.params.capacity = s.head := by omega
  unfold State.liveSlots
  rw [occ_pushed_of_room s b hh ht hf, List.range_succ, List.map_append]
  simp [hf, h4]

/-- The live slots after a WRITE on a full buffer of at least two slots: those of the state with its oldest byte taken, then
the slot at `head` (41_write.md R74). -/
theorem liveSlots_pushed_of_full (s : State) (b : Byte) (hh : s.head < s.params.capacity)
    (ht : s.tail < s.params.capacity) (hc : 2 ≤ s.params.capacity) (hf : s.isFull = true) :
    (s.pushed b).liveSlots = s.popped.liveSlots ++ [s.head] := by
  have h1 : inc s.params s.head = s.tail := by simpa [State.isFull] using hf
  have h2 := inc_cases s.params hh
  have h3 := inc_cases s.params ht
  have h4 : s.popped.isFull = false := by simp [State.isFull]; omega
  have h5 := liveSlots_pushed_of_room s.popped b hh (inc_lt _ _) h4
  rw [popped_head] at h5
  rw [← h5]
  exact liveSlots_congr rfl rfl (by simp [hf, h4])

end Sys2Proof.Machine
end

