-- ==== Sys2Proof/Laws/Memory.lean ====
section
/-! SUPPORT. The storage: a read after a write, and the canonical form. -/

namespace Sys2Proof.Machine

@[simp] theorem find_nil (a : Nat) : Memory.find [] a = none := rfl

@[simp] theorem find_cons (k : Nat) (v : Byte) (m : Memory) (a : Nat) :
    Memory.find ((k, v) :: m) a = if k = a then some v else Memory.find m a := rfl

theorem find_eq_none_of_lt {m : Memory} {a : Nat} (h : ∀ c ∈ m, a < c.1) : m.find a = none := by
  induction m with
  | nil => rfl
  | cons c m ih =>
    have h1 := h c (by simp)
    rw [find_cons, if_neg (by omega)]
    exact ih fun d hd => h d (by simp [hd])

/-- A slot after a write to it holds the byte, and every other slot is as before (10_state.md R22). -/
theorem find_store (m : Memory) (a : Nat) (b : Byte) (x : Nat) :
    (m.store a b).find x = if a = x then some b else m.find x := by
  induction m with
  | nil => rfl
  | cons c m ih =>
    obtain ⟨k, v⟩ := c
    unfold Memory.store
    split
    · rfl
    · split
      · next h => subst h; simp only [find_cons]; split <;> rfl
      · next h =>
        simp only [find_cons, ih]
        by_cases hx : k = x
        · subst hx; simp [h]
        · simp [hx]

@[simp] theorem find_store_self (m : Memory) (a : Nat) (b : Byte) : (m.store a b).find a = some b := by
  simp [find_store]

theorem find_store_other (m : Memory) {a x : Nat} (b : Byte) (h : a ≠ x) : (m.store a b).find x = m.find x := by
  simp [find_store, h]

/-- The slots listed after a write: the written one and those listed before. -/
theorem key_of_mem_store {m : Memory} {a : Nat} {b : Byte} {c : Host.Cell} (h : c ∈ m.store a b) :
    c.1 = a ∨ c ∈ m := by
  induction m with
  | nil => simp [Memory.store] at h; simp [h]
  | cons d m ih =>
    unfold Memory.store at h
    split at h
    · simp only [List.mem_cons] at h ⊢
      rcases h with h | h | h
      · simp [h]
      · simp [h]
      · exact .inr (.inr h)
    · split at h
      · simp only [List.mem_cons] at h ⊢
        rcases h with h | h
        · simp [h]
        · exact .inr (.inr h)
      · simp only [List.mem_cons] at h ⊢
        rcases h with h | h
        · simp [h]
        · rcases ih h with h | h
          · exact .inl h
          · exact .inr (.inr h)

theorem wf_cons {c : Host.Cell} {m : Memory} :
    Memory.wf (c :: m) ↔ (∀ d ∈ m, c.1 < d.1) ∧ Memory.wf m := by
  simp [Memory.wf, List.pairwise_cons]

/-- Every write keeps the canonical form. -/
theorem store_wf {m : Memory} (h : m.wf) (a : Nat) (b : Byte) : (m.store a b).wf := by
  induction m with
  | nil => simp [Memory.store, Memory.wf]
  | cons c m ih =>
    obtain ⟨hc, hm⟩ := wf_cons.mp h
    unfold Memory.store
    split
    · refine wf_cons.mpr ⟨?_, h⟩
      rename_i hac
      intro d hd
      rcases List.mem_cons.mp hd with rfl | hd
      · exact hac
      · exact lt_trans hac (hc d hd)
    · split
      · rename_i hac; subst hac; exact wf_cons.mpr ⟨hc, hm⟩
      · refine wf_cons.mpr ⟨fun d hd => ?_, ih hm⟩
        rcases key_of_mem_store hd with hd | hd
        · simp only; omega
        · exact hc d hd

end Sys2Proof.Machine
end

