-- ==== Sys2Proof/Laws/Ops.lean ====
section
/-! SUPPORT. One lemma per shared operation that says everything it can do; the provers cite these instead of unfolding the
operations. -/

namespace Sys2Proof.Machine

/-- `readSlot` answers a byte exactly where the slot exists and holds that byte. -/
theorem readSlot_ok {s : State} {a : Nat} {b : Byte} :
    s.readSlot a = .ok b ↔ a < s.params.capacity ∧ s.stor.find a = some b := by
  unfold State.readSlot
  constructor
  · intro h
    split at h
    · refine ⟨‹_›, ?_⟩
      split at h
      · next hb => rw [hb]; simpa using h
      · cases h
    · cases h
  · rintro ⟨ha, hb⟩; simp [ha, hb]

/-- `readSlots` answers bytes exactly where every slot exists and is written, one byte per slot in order. -/
theorem readSlots_ok {s : State} {as : List Nat} {bs : List Byte} :
    s.readSlots as = .ok bs ↔
      List.Forall₂ (fun a b => a < s.params.capacity ∧ s.stor.find a = some b) as bs := by
  induction as generalizing bs with
  | nil => simp [State.readSlots, eq_comm]
  | cons a as ih =>
    unfold State.readSlots
    constructor
    · intro h
      split at h
      · cases h
      · next hb =>
        split at h
        · cases h
        · next hbs => cases h; exact .cons (readSlot_ok.mp hb) (ih.mp hbs)
    · intro h
      cases h with
      | cons h1 h2 => simp [readSlot_ok.mpr h1, ih.mpr h2]

/-- READ: the empty case, or the oldest byte and `tail` advanced (42_read.md R81). -/
theorem readOp_ok {s m : State} {co : ConsumerOut} :
    s.readOp = .ok (co, m) ↔
      (s.isEmpty = true ∧ co = ConsumerOut.zero s.params ∧ m = s) ∨
      (s.isEmpty = false ∧ ∃ b, s.tail < s.params.capacity ∧ s.stor.find s.tail = some b ∧
        co = { ConsumerOut.zero s.params with rdValid := true, rdData := b } ∧
        m = s.popped) := by
  unfold State.readOp
  constructor
  · intro h
    split at h
    · next he => cases h; exact .inl ⟨he, rfl, rfl⟩
    · next he =>
      split at h
      · cases h
      · next hb =>
        cases h
        obtain ⟨h1, h2⟩ := readSlot_ok.mp hb
        exact .inr ⟨by simpa using he, _, h1, h2, rfl, rfl⟩
  · rintro (⟨he, rfl, rfl⟩ | ⟨he, b, h1, h2, rfl, rfl⟩)
    · simp [he]
    · simp [he, readSlot_ok.mpr ⟨h1, h2⟩]

/-- DRAIN: it fires and returns every live byte, or it does not and leaves the state (44_drain.md R101). -/
theorem drainOp_ok {s m : State} {th : Nat} {co : ConsumerOut} :
    s.drainOp th = .ok (co, m) ↔
      (th ≤ s.occ ∧ ∃ bytes, s.readSlots s.liveSlots = .ok bytes ∧
        co = { ConsumerOut.zero s.params with
                drainOk := true, drainLen := s.occ, drainData := drainLanes s.params bytes } ∧
        m = s.drained) ∨
      (s.occ < th ∧ co = ConsumerOut.zero s.params ∧ m = s) := by
  unfold State.drainOp State.fires
  constructor
  · intro h
    split at h
    · next hf =>
      split at h
      · cases h
      · next hb => cases h; exact .inl ⟨by simpa using hf, _, hb, rfl, rfl⟩
    · next hf => cases h; exact .inr ⟨by simpa using hf, rfl, rfl⟩
  · rintro (⟨hf, bytes, hb, rfl, rfl⟩ | ⟨hf, rfl, rfl⟩)
    · simp [hf, hb]
    · simp [Nat.not_le.mpr hf]

/-- WRITE answers exactly where the slot at `head` exists, with `wr_drop` the full flag (41_write.md R71). -/
theorem writeOp_ok {m t : State} {b : Byte} {drop : Bool} :
    m.writeOp b = .ok (drop, t) ↔ m.head < m.params.capacity ∧ drop = m.isFull ∧ t = m.pushed b := by
  unfold State.writeOp
  constructor
  · intro h
    split at h
    · next hh => cases h; exact ⟨hh, rfl, rfl⟩
    · cases h
  · rintro ⟨hh, rfl, rfl⟩; simp [hh]

/-- The consumer half of a cycle, command by command (45_cycle.md R111). -/
@[simp] theorem consume_none (s : State) : s.consume .none = .ok (ConsumerOut.zero s.params, s) := rfl
@[simp] theorem consume_reserved (s : State) : s.consume .reserved = .ok (ConsumerOut.zero s.params, s) := rfl
@[simp] theorem consume_read (s : State) : s.consume .read = s.readOp := rfl
@[simp] theorem consume_drain (s : State) (th : Nat) : s.consume (.drain th) = s.drainOp th := rfl
@[simp] theorem produce_none (s : State) : s.produce none = .ok (false, s) := rfl
@[simp] theorem produce_some (s : State) (b : Byte) : s.produce (some b) = s.writeOp b := rfl

/-- A consumer operation changes `tail` alone (42_read.md R81, 44_drain.md R101). -/
theorem consume_frame {s m : State} {c : ConsumerOp} {co : ConsumerOut} (h : s.consume c = .ok (co, m)) :
    m = { s with tail := m.tail } := by
  cases c with
  | none => cases h; rfl
  | reserved => cases h; rfl
  | read => rcases readOp_ok.mp h with ⟨-, -, rfl⟩ | ⟨-, b, -, -, -, rfl⟩ <;> rfl
  | drain th => rcases drainOp_ok.mp h with ⟨-, b, -, -, rfl⟩ | ⟨-, -, rfl⟩ <;> rfl

/-- A cycle answers a next state exactly where the block has been reset and both halves answer; that state
(45_cycle.md R118). -/
theorem cycle_next {s t : State} {c : ConsumerOp} {w : Option Byte} :
    s.cycle c w = .next t ↔
      s.phase = .running ∧ ∃ co m drop u, s.consume c = .ok (co, m) ∧ m.produce w = .ok (drop, u) ∧
        t = u.driving { status := s.status, consumer := co, wrDrop := drop } := by
  unfold State.cycle
  constructor
  · intro h
    split at h
    · cases h
    · next hp =>
      refine ⟨hp, ?_⟩
      split at h
      · cases h
      · next hc =>
        split at h
        · cases h
        · next hw => cases h; exact ⟨_, _, _, _, hc, hw, rfl⟩
  · rintro ⟨hp, co, m, drop, u, hc, hw, rfl⟩
    simp [hp, hc, hw]

/-- A cycle refuses exactly before the first reset (70_reset_and_hazards.md R152). -/
theorem cycle_refused {s : State} {c : ConsumerOp} {w : Option Byte} {r : Refusal} :
    s.cycle c w = .refused r ↔ s.phase = .unreset ∧ r = .beforeFirstReset := by
  unfold State.cycle
  constructor
  · intro h
    split at h
    · next hp => exact ⟨hp, by simpa using h.symm⟩
    · split at h
      · cases h
      · split at h <;> cases h
  · rintro ⟨hp, rfl⟩; simp [hp]

/-- The cycle word of the coming cycle, taken from the stimulus (30_encoding.md R52). -/
theorem fetch_ok {s s' : State} {i : Instr} :
    s.fetch = .ok (i, s') ↔
      ∃ cw rest, s.stimulus = cw :: rest ∧ decode s.params cw = .ok i ∧ s' = s.under rest := by
  unfold State.fetch
  constructor
  · intro h
    split at h
    · cases h
    · next cw rest hs =>
      split at h
      · cases h
      · next hd => cases h; exact ⟨cw, rest, hs, hd, rfl⟩
  · rintro ⟨cw, rest, hs, hd, rfl⟩
    simp [hs, hd, State.under]

end Sys2Proof.Machine
end

