-- ==== Sys2Proof/Laws/PerInstr.lean ====
section
/-! SUPPORT. Facts about every operation as syntax, one lemma per constructor. -/

namespace Sys2Proof.Laws.EncodeFits

/-- The encoder's word for an operation whose operands fit an instance is a cycle word of that instance
(30_encoding.md R52, R55). -/
def Statement (i : Instr) : Prop :=
  ∀ (p : Params) (w : Nat), i.operandsFit p = true → encode i = some w → w < 2 ^ p.cwW

/-- The common part: the inputs of the operation fit. -/
theorem of_inputs {i : Instr}
    (h : ∀ (p : Params) (x : Inputs), i.operandsFit p = true → i.inputs = some x → x.th < 2 ^ p.thW) :
    Statement i := by
  intro p w hf he
  obtain ⟨x, hx, rfl⟩ := Option.map_eq_some_iff.mp he
  exact pack_lt p x (h p x hf hx)

theorem zero_fits {i : Instr} {x : Inputs} (p : Params) (h : some x = i.inputs) (h0 : x.th = 0) :
    ∀ y, i.inputs = some y → y.th < 2 ^ p.thW := by
  intro y hy
  rw [hy] at h
  cases h
  rw [h0]; positivity

theorem reset : Statement .reset := of_inputs fun p x _ h => zero_fits p rfl rfl x h
theorem nop : Statement .nop := of_inputs fun p x _ h => zero_fits p rfl rfl x h
theorem write (wd : Byte) : Statement (.write wd) := of_inputs fun p x _ h => zero_fits p rfl rfl x h
theorem read : Statement .read := of_inputs fun p x _ h => zero_fits p rfl rfl x h
theorem writeRead (wd : Byte) : Statement (.writeRead wd) := of_inputs fun p x _ h => zero_fits p rfl rfl x h
theorem rsv : Statement .rsv := of_inputs fun p x _ h => zero_fits p rfl rfl x h
theorem writeRsv (wd : Byte) : Statement (.writeRsv wd) := of_inputs fun p x _ h => zero_fits p rfl rfl x h
theorem occupancy : Statement .occupancy := of_inputs fun p x _ h => by cases h

theorem drain (th : Nat) : Statement (.drain th) :=
  of_inputs fun p x hf h => by cases h; simpa [Instr.operandsFit] using hf

theorem writeDrain (wd : Byte) (th : Nat) : Statement (.writeDrain wd th) :=
  of_inputs fun p x hf h => by cases h; simpa [Instr.operandsFit] using hf

end Sys2Proof.Laws.EncodeFits
end

