-- ==== Sys2Proof/Laws/Step.lean ====
section
/-! SUPPORT. What one step and a run can do. -/

namespace Sys2Proof.Machine

/-- Every operation but RESET is a cycle with the consumer and producer operations of its row (30_encoding.md R53). -/
theorem exec_eq_cycle {i : Instr} (h : i ≠ .reset) (s : State) :
    exec i s = s.cycle (consumerOf i) (producerOf i) := by
  cases i <;> first | rfl | exact absurd rfl h

/-- A step that answers a next state took a cycle word from the stimulus and performed its operation. -/
theorem step_next {s t : State} (h : step s = .next t) :
    ∃ cw rest i, s.stimulus = cw :: rest ∧ decode s.params cw = .ok i ∧ exec i (s.under rest) = .next t := by
  unfold step at h
  split at h
  · cases h
  · next i s' hf =>
    obtain ⟨cw, rest, h1, h2, rfl⟩ := fetch_ok.mp hf
    exact ⟨cw, rest, i, h1, h2, h⟩

/-- The same for a step that faults. -/
theorem step_fault {s : State} {f : Fault} (h : step s = .fault f) :
    ∃ cw rest i, s.stimulus = cw :: rest ∧ decode s.params cw = .ok i ∧ exec i (s.under rest) = .fault f := by
  unfold step at h
  split at h
  · cases h
  · next i s' hf =>
    obtain ⟨cw, rest, h1, h2, rfl⟩ := fetch_ok.mp hf
    exact ⟨cw, rest, i, h1, h2, h⟩

/-- A run of one cycle more that answers a next state, on any machine of the host's form. -/
theorem run_succ_next (M : Host.Core) (k : Nat) (s t : M.State) :
    M.run (k + 1) s = .next t ↔ ∃ u, M.step s = .next u ∧ M.run k u = .next t := by
  rw [Host.Core.run]
  cases M.step s with
  | next u => exact ⟨fun h => ⟨u, rfl, h⟩, fun ⟨v, hv, h⟩ => by cases hv; exact h⟩
  | fault r => simp
  | refused r => simp

theorem runsTo_zero {s t : State} : RunsTo 0 s t ↔ s = t := by
  show Host.Outcome.next s = Host.Outcome.next t ↔ _
  simp

/-- A run of one cycle more: a first step, then the rest of the run. -/
theorem runsTo_succ {k : Nat} {s t : State} : RunsTo (k + 1) s t ↔ ∃ u, step s = .next u ∧ RunsTo k u t :=
  run_succ_next Sys2Proof.core k s t

/-- Runs one after the other. -/
theorem runsTo_add {j k : Nat} {s t : State} : RunsTo (j + k) s t ↔ ∃ u, RunsTo j s u ∧ RunsTo k u t := by
  induction j generalizing s with
  | zero => simp [runsTo_zero]
  | succ j ih =>
    rw [Nat.add_right_comm, runsTo_succ]
    constructor
    · rintro ⟨u, h1, h2⟩
      obtain ⟨v, h3, h4⟩ := ih.mp h2
      exact ⟨v, runsTo_succ.mpr ⟨u, h1, h3⟩, h4⟩
    · rintro ⟨v, h1, h2⟩
      obtain ⟨u, h3, h4⟩ := runsTo_succ.mp h1
      exact ⟨u, h3, ih.mpr ⟨v, h4, h2⟩⟩

end Sys2Proof.Machine
end

