-- ==== Sys2Proof/Laws/Trace.lean ====
section
/-! SUPPORT. What a sequence of operations answers, one operation at a time. -/

namespace Sys2Proof.Machine

@[simp] theorem bytesReturned_nil : bytesReturned [] = [] := rfl
@[simp] theorem bytesReturned_cons (o : Outputs) (outs : List Outputs) :
    bytesReturned (o :: outs) = o.returned ++ bytesReturned outs := List.flatMap_cons

@[simp] theorem dropEvents_nil : dropEvents [] = 0 := rfl
@[simp] theorem dropEvents_cons (o : Outputs) (outs : List Outputs) :
    dropEvents (o :: outs) = dropEvents outs + if o.wrDrop then 1 else 0 := by
  simp [dropEvents, List.countP_cons]

@[simp] theorem bytesWritten_nil : bytesWritten [] = [] := rfl
@[simp] theorem bytesWritten_cons (i : Instr) (is : List Instr) :
    bytesWritten (i :: is) = (producerOf i).toList ++ bytesWritten is := by
  cases h : producerOf i <;> simp [bytesWritten, h]

@[simp] theorem perform_nil (s : State) : s.perform [] = some ([], s) := rfl

/-- A sequence answers exactly where its first operation does and the rest does from the state that one leaves. -/
theorem perform_cons {s u : State} {i : Instr} {is : List Instr} {outs : List Outputs} :
    s.perform (i :: is) = some (outs, u) ↔
      ∃ t outs', exec i s = .next t ∧ t.perform is = some (outs', u) ∧ outs = t.out.toList ++ outs' := by
  rw [State.perform]
  constructor
  · intro h
    split at h
    · next t ht =>
      split at h
      · next outs' v hv => cases h; exact ⟨t, outs', ht, hv, rfl⟩
      · cases h
    · cases h
    · cases h
  · rintro ⟨t, outs', ht, hv, rfl⟩
    simp [ht, hv]

end Sys2Proof.Machine
end

