-- ==== Sys2Proof/Tests/Slice0.lean ====
section
/-! SUPPORT. The model's own tests. Expected results come from the vectors of 95_test_vectors.md, named beside each test, and
from the encodings of 30_encoding.md; the second half shows that the hypotheses of every statement can be met. -/

namespace Sys2Proof.Tests

open Sys2Proof.Machine

/-! ### Small instances and states -/

def p1 : Params := ⟨1, 8, by decide, by decide⟩
def p2 : Params := ⟨2, 8, by decide, by decide⟩
def p4 : Params := ⟨4, 8, by decide, by decide⟩
def p4d2 : Params := ⟨4, 2, by decide, by decide⟩
def p5 : Params := ⟨5, 8, by decide, by decide⟩
def p50 : Params := ⟨50, 8, by decide, by decide⟩

/-- A reset block with the given indices, drop counter and written slots. -/
def block (p : Params) (head tail dropCount : Nat) (stor : Memory) : State :=
  { State.resetFor p with head := head, tail := tail, dropCount := dropCount, stor := stor }

/-- `C = 4`, `h = 3`, `t = 0`, live `[11, 22, 33]`: the full buffer of the vectors. -/
def full4 : State := block p4 3 0 0 [(0, 0x11), (1, 0x22), (2, 0x33)]

/-- `C = 4`, `h = 2`, `t = 0`, live `[11, 22]`: the partial buffer of the vectors. -/
def part4 : State := block p4 2 0 0 [(0, 0x11), (1, 0x22)]

/-- `C = 4`, `h = 2`, `t = 2`, live `[]`, every slot written: vector R1's state. -/
def empty4 : State := block p4 2 2 0 [(0, 0x11), (1, 0x22), (2, 0x33), (3, 0x44)]

/-- `C = 1`. -/
def only1 : State := block p1 0 0 0 []

/-- Power-up, with `head` out of range (70_reset_and_hazards.md R152). -/
def powerUp4 : State := { block p4 7 5 9 [] with phase := .unreset }

/-- What a test compares of a next state: `head`, `tail`, the live bytes, `drop_count`. -/
def regs (r : Host.Outcome State Fault Refusal) : Option (Nat × Nat × List Byte × Nat) :=
  match r with
  | .next t => some (t.head, t.tail, t.live, t.dropCount)
  | .fault _ => none
  | .refused _ => none

/-- The response outputs of a next state: `rd_valid`, `rd_data`, `drain_ok`, `drain_len`, `drain_data`, `wr_drop`. -/
def responses (r : Host.Outcome State Fault Refusal) : Option (Bool × Byte × Bool × Nat × Nat × Bool) :=
  match r with
  | .next t => t.out.map fun o =>
      (o.consumer.rdValid, o.consumer.rdData, o.consumer.drainOk, o.consumer.drainLen,
        lanesValue o.consumer.drainData, o.wrDrop)
  | .fault _ => none
  | .refused _ => none

/-- The status outputs of a next state: `occupancy`, `empty`, `full`, `drop_count`. -/
def statusOf (r : Host.Outcome State Fault Refusal) : Option (Nat × Bool × Bool × Nat) :=
  match r with
  | .next t => t.out.map fun o => (o.status.occupancy, o.status.empty, o.status.full, o.status.dropCount)
  | .fault _ => none
  | .refused _ => none

/-- The storage of a next state. -/
def storOf (r : Host.Outcome State Fault Refusal) : Option Memory :=
  match r with
  | .next t => some t.stor
  | .fault _ => none
  | .refused _ => none

/-! ### Well-formedness: each check refuses an ill-formed term -/

theorem test_drain_threshold_too_wide : (Instr.drain 8).wellFormed p4 = false := by decide
theorem test_write_drain_threshold_too_wide : (Instr.writeDrain 0x44 8).wellFormed p4 = false := by decide
theorem test_occupancy_has_no_encoding : Instr.occupancy.wellFormed p4 = false := by decide
theorem test_drain_threshold_largest : (Instr.drain 7).wellFormed p4 = true := by decide

/-! ### Decoding: the words of 30_encoding.md R59 and 95_test_vectors.md, bit by bit -/

theorem test_decode_reset : decode p4 0b000_1_00_0_00000000 = .ok .reset := by rfl
theorem test_decode_nop : decode p4 0b000_0_00_0_00000000 = .ok .nop := by rfl
theorem test_decode_write : decode p4 0b000_0_00_1_00000001 = .ok (.write 0x01) := by rfl
theorem test_decode_read : decode p4 0b000_0_01_0_00000000 = .ok .read := by rfl
theorem test_decode_write_read : decode p4 0b000_0_01_1_00000101 = .ok (.writeRead 0x05) := by rfl
theorem test_decode_drain : decode p4 0b011_0_10_0_00000000 = .ok (.drain 3) := by rfl
theorem test_decode_write_drain : decode p4 0b100_0_10_1_01000100 = .ok (.writeDrain 0x44 4) := by rfl
theorem test_decode_rsv : decode p4 0b000_0_11_0_00000000 = .ok .rsv := by rfl
theorem test_decode_write_rsv : decode p4 0b000_0_11_1_00001001 = .ok (.writeRsv 0x09) := by rfl
/-- Vector Z1: RESET before every other field. -/
theorem test_decode_reset_first : decode p4 0x0BEE = .ok .reset := by rfl
/-- Vector P5: `C = 50`, `DRAIN 50` is `0x32400`. -/
theorem test_decode_drain_50 : decode p50 0x32400 = .ok (.drain 50) := by rfl
/-- `CW_W = 15` for `C = 4`: bit 15 is no bit of a cycle word. -/
theorem test_decode_too_wide : decode p4 0x8000 = .error .notACycleWord := by rfl
/-- Vector X4. -/
theorem test_encode_write_drain : encode (.writeDrain 0x44 3) = some 0x3544 := by decide
theorem test_decode_table_word : decodeTableWord 16 0x0709 = some (.writeRsv 0x09) := by decide

/-! ### One step of each operation, against the vectors -/

/-- Vector Z1: reset wins over W and CMD; the storage is kept. -/
theorem test_reset_wins :
    let r := step ({ full4 with dropCount := 5 }.under [0x0BEE])
    regs r = some (0, 0, [], 0) ∧ responses r = some (false, 0, false, 0, 0, false) ∧
    statusOf r = some (3, false, true, 5) ∧ storOf r = some [(0, 0x11), (1, 0x22), (2, 0x33)] :=
  ⟨by decide, by decide, by decide, by decide⟩
/-- Vector Z2: the first reset, from an unspecified state. -/
theorem test_first_reset :
    regs (step (powerUp4.under [0x0800])) = some (0, 0, [], 0) ∧
    responses (step (powerUp4.under [0x0800])) = some (false, 0, false, 0, 0, false) := by decide
/-- Vector X8. -/
theorem test_nop :
    regs (exec .nop { full4 with dropCount := 5 }) = some (3, 0, [0x11, 0x22, 0x33], 5) ∧
    statusOf (exec .nop { full4 with dropCount := 5 }) = some (3, false, true, 5) := by decide
/-- Vector W5: full, `tail` wraps on the drop. -/
theorem test_write_tail_wraps :
    let s := block p4 2 3 0 [(0, 0x55), (1, 0x66), (3, 0x77)]
    regs (exec (.write 0x88) s) = some (3, 0, [0x55, 0x66, 0x88], 1) ∧
    responses (exec (.write 0x88) s) = some (false, 0, false, 0, 0, true) := by decide
/-- Vector W6: the drop counter wraps modulo `2^DROP_W`. -/
theorem test_write_drop_count_wraps :
    let s := block p4d2 3 0 3 [(0, 0x11), (1, 0x22), (2, 0x33)]
    regs (exec (.write 0x44) s) = some (0, 1, [0x22, 0x33, 0x44], 0) ∧
    storOf (exec (.write 0x44) s) = some [(0, 0x11), (1, 0x22), (2, 0x33), (3, 0x44)] := by decide
/-- Vector R1: an empty buffer never returns stale bytes. -/
theorem test_read_empty :
    regs (exec .read empty4) = some (2, 2, [], 0) ∧
    responses (exec .read empty4) = some (false, 0, false, 0, 0, false) := by decide
/-- Vector R3: `tail` wraps. -/
theorem test_read_tail_wraps :
    let s := block p4 1 3 0 [(0, 0x66), (3, 0x55)]
    regs (exec .read s) = some (1, 0, [0x66], 0) ∧
    responses (exec .read s) = some (true, 0x55, false, 0, 0, false) := by decide
/-- Vector X1: the READ does not see the byte of its own cycle. -/
theorem test_write_read_empty :
    let s := block p4 1 1 0 []
    regs (exec (.writeRead 0xAA) s) = some (2, 1, [0xAA], 0) ∧
    responses (exec (.writeRead 0xAA) s) = some (false, 0, false, 0, 0, false) := by decide
/-- Vector X2: full, the READ frees a slot, no drop. -/
theorem test_write_read_full :
    regs (exec (.writeRead 0x44) full4) = some (0, 1, [0x22, 0x33, 0x44], 0) ∧
    responses (exec (.writeRead 0x44) full4) = some (true, 0x11, false, 0, 0, false) := by decide
/-- Vector D5: a wrapped live range, lanes oldest first. -/
theorem test_drain_wrapped :
    let s := block p4 1 2 0 [(0, 0x03), (2, 0x01), (3, 0x02)]
    regs (exec (.drain 3) s) = some (1, 1, [], 0) ∧
    responses (exec (.drain 3) s) = some (false, 0, true, 3, 0x00030201, false) := by decide
/-- Vector D6: the threshold `C` never fires. -/
theorem test_drain_default_never_fires :
    regs (exec (.drain 4) full4) = some (3, 0, [0x11, 0x22, 0x33], 0) ∧
    responses (exec (.drain 4) full4) = some (false, 0, false, 0, 0, false) := by decide
/-- Vector X4: the drain fires, then the write lands in the empty buffer. -/
theorem test_write_drain_fires :
    regs (exec (.writeDrain 0x44 3) full4) = some (0, 3, [0x44], 0) ∧
    responses (exec (.writeDrain 0x44 3) full4) = some (false, 0, true, 3, 0x00332211, false) := by decide
/-- Vector X9: `C = 1`. -/
theorem test_write_drain_capacity_one :
    regs (exec (.writeDrain 0x77 0) only1) = some (0, 0, [], 1) ∧
    responses (exec (.writeDrain 0x77 0) only1) = some (false, 0, true, 0, 0, true) ∧
    storOf (exec (.writeDrain 0x77 0) only1) = some [(0, 0x77)] := ⟨by decide, by decide, by decide⟩
/-- Vector X6. -/
theorem test_rsv :
    regs (exec .rsv full4) = some (3, 0, [0x11, 0x22, 0x33], 0) ∧
    responses (exec .rsv full4) = some (false, 0, false, 0, 0, false) := by decide
/-- Vector X7. -/
theorem test_write_rsv :
    regs (exec (.writeRsv 0x44) full4) = some (0, 1, [0x22, 0x33, 0x44], 1) ∧
    responses (exec (.writeRsv 0x44) full4) = some (false, 0, false, 0, 0, true) := by decide
/-- Vector O2: `head < tail`. -/
theorem test_occupancy_wrapped :
    statusOf (exec .occupancy (block p4 1 3 0 [])) = some (2, false, false, 0) := by decide
/-- Vector O4: `C` is no power of two. -/
theorem test_occupancy_capacity_five :
    statusOf (exec .occupancy (block p5 0 4 0 [])) = some (1, false, false, 0) := by decide

/-- A word placed by `withFetchWord` runs as the first operation after reset. -/
theorem test_first_word_after_reset :
    regs (step (State.reset.withFetchWord 16 0x01AA)) = some (1, 0, [0xAA], 0) := by decide

/-! ### The hypotheses of the statements can be met -/

theorem witness_DecodeUndoesEncode :
    (Instr.writeDrain 0xFF 7).wellFormed p4 = true ∧ Instr.reset.wellFormed p1 = true := by decide
theorem witness_DecoderReadsEveryCycleWord : 0 < 2 ^ p4.cwW ∧ 0x7FFF < 2 ^ p4.cwW := by decide
theorem witness_ExampleWordsDecode : p4.capacity = 4 := by decide
theorem witness_IgnoredFieldsHaveNoEffect_reset :
    0x0BEE < 2 ^ full4.params.cwW ∧ 0x7800 < 2 ^ full4.params.cwW ∧
    Nat.testBit 0x0BEE 11 = true ∧ Nat.testBit 0x7800 11 = true := by decide
/-- Vector X11: WRITE with an ignored threshold. -/
theorem witness_IgnoredFieldsHaveNoEffect_running :
    0x5133 < 2 ^ part4.params.cwW ∧ Nat.testBit 0x5133 11 = false ∧ Nat.testBit 0x0133 11 = false ∧
    Nat.testBit 0x5133 8 = Nat.testBit 0x0133 8 ∧ Nat.testBit 0x5133 9 = Nat.testBit 0x0133 9 ∧
    Nat.testBit 0x5133 10 = Nat.testBit 0x0133 10 ∧ Nat.testBit 0x5133 8 = true ∧
    0x5133 % 2 ^ 8 = 0x0133 % 2 ^ 8 ∧ Nat.testBit 0x5133 10 = false := by decide
/-- A DRAIN with an ignored byte. -/
theorem witness_IgnoredFieldsHaveNoEffect_drain :
    Nat.testBit 0x34FF 11 = false ∧ Nat.testBit 0x3400 11 = false ∧
    Nat.testBit 0x34FF 8 = false ∧ Nat.testBit 0x3400 8 = false ∧
    Nat.testBit 0x34FF 9 = false ∧ Nat.testBit 0x3400 9 = false ∧
    Nat.testBit 0x34FF 10 = true ∧ Nat.testBit 0x3400 10 = true ∧ 0x34FF / 2 ^ 12 = 0x3400 / 2 ^ 12 := by decide
theorem witness_DerivedWidths :
    (5 : Nat) ≤ 2 ^ 3 ∧ p4.capacity = 4 ∧ p50.capacity = 50 ∧ p1.capacity = 1 := by decide
theorem witness_PseudoInstructionsExpand :
    full4.Ready ∧ part4.Ready ∧ only1.Ready ∧
    Instr.nop ∈ (Pseudo.idle 2).expand p4 ∧
    Instr.drain 4 ∈ Pseudo.drainDefault.expand full4.params ∧
    Instr.drain 3 ∈ Pseudo.drainWhenFull.expand full4.params ∧
    Instr.drain 0 ∈ Pseudo.drainAll.expand full4.params := by decide
theorem witness_StepRunsDecodedOperation :
    (full4.under [0x3400]).stimulus = 0x3400 :: [] ∧ decode (full4.under [0x3400]).params 0x3400 = .ok (.drain 3) :=
  ⟨rfl, rfl⟩
theorem witness_StepStopsWithoutCycleWord :
    full4.stimulus = [] ∧ (full4.under [0x8000]).stimulus = 0x8000 :: [] ∧
    2 ^ (full4.under [0x8000]).params.cwW ≤ 0x8000 := by decide
theorem witness_OnlyResetBeforeFirstReset : powerUp4.phase = .unreset ∧ Instr.nop ≠ .reset := by decide
theorem witness_ZeroCapacityRefusedAtElaboration : 0 < 1 ∧ 0 < 1 := by decide
theorem witness_ResetCycle :
    full4.phase = .running ∧ (full4.under [0x0BEE]).stimulus = 0x0BEE :: [] ∧
    0x0BEE < 2 ^ (full4.under [0x0BEE]).params.cwW ∧ Nat.testBit 0x0BEE 11 = true := by decide
theorem witness_FullAndEmptyByOccupancy :
    (full4.head < full4.params.capacity ∧ full4.tail < full4.params.capacity ∧ 2 ≤ full4.params.capacity) ∧
    only1.head < only1.params.capacity ∧ only1.tail < only1.params.capacity ∧ only1.params.capacity = 1 := by decide
theorem witness_LiveSlotsOfAState :
    full4.head < full4.params.capacity ∧ full4.tail < full4.params.capacity ∧ full4.LiveWritten ∧
    2 ≤ full4.params.capacity ∧ full4.isFull = true ∧ 2 < full4.occ := by decide
theorem witness_OccupancyStateMachine :
    (empty4.Ready ∧ empty4.occState = .EMPTY) ∧ (part4.Ready ∧ part4.occState = .PARTIAL) ∧
    (full4.Ready ∧ full4.occState = .FULL) ∧ (only1.Ready ∧ only1.params.capacity = 1) ∧
    ((block p2 1 0 0 [(0, 1)]).Ready ∧ (block p2 1 0 0 [(0, 1)]).params.capacity = 2) ∧ 3 ≤ p4.capacity :=
  ⟨by decide, by decide, by decide, by decide, by decide, by decide⟩
theorem witness_WriteStoresAtHead :
    full4.phase = .running ∧ full4.head < full4.params.capacity ∧ full4.head + 1 = full4.params.capacity ∧
    0 ≠ full4.head := by decide
theorem witness_ReadTakesTheByteAtTail :
    (empty4.phase = .running ∧ empty4.head = empty4.tail) ∧
    let s := block p4 1 3 0 [(0, 0x66), (3, 0x55)]
    s.phase = .running ∧ s.head ≠ s.tail ∧ s.tail < s.params.capacity ∧ s.stor.find s.tail = some 0x55 := by decide
theorem witness_DrainTakesEveryLiveByte :
    full4.phase = .running ∧ full4.occ < 4 ∧ 3 ≤ full4.occ ∧ full4.LiveWritten := by decide
theorem witness_NopAndReservedChangeNothing : full4.phase = .running := by decide
theorem witness_OccupancyAloneChangesNothing : part4.phase = .running := by decide
theorem witness_StatusShowsPreEdgeState :
    full4.phase = .running ∧ ∃ t, exec .read full4 = .next t := ⟨by decide, _, rfl⟩
theorem witness_ConsumerBeforeProducer : full4.Ready ∧ only1.Ready := by decide
theorem witness_WriteReadCases :
    (empty4.Ready ∧ empty4.occ = 0 ∧ 2 ≤ empty4.params.capacity) ∧
    (full4.Ready ∧ full4.isFull = true ∧ 2 ≤ full4.params.capacity) ∧
    (part4.Ready ∧ part4.occState = .PARTIAL) ∧ only1.Ready ∧ only1.params.capacity = 1 := by decide
theorem witness_WriteDrainCases :
    full4.Ready ∧ 3 ≤ full4.occ ∧ 2 ≤ full4.params.capacity ∧ full4.occ < 4 ∧
    only1.Ready ∧ only1.params.capacity = 1 ∧ 0 ≤ only1.occ ∧ only1.occ < 1 := by decide
theorem witness_WriteLosesOnlyTheOldest :
    full4.Ready ∧ 2 ≤ full4.params.capacity ∧ full4.isFull = true ∧
    part4.Ready ∧ 2 ≤ part4.params.capacity ∧ part4.isFull = false := by decide
theorem witness_CapacityOneLosesEveryByte : only1.Ready ∧ only1.params.capacity = 1 := by decide
theorem witness_DrainThresholdCases :
    full4.Ready ∧ 1 ≤ 3 ∧ 3 ≤ full4.params.capacity - 1 ∧ 3 = full4.params.capacity - 1 ∧
    2 ≤ full4.params.capacity ∧ full4.params.capacity ≤ 4 ∧ empty4.Ready ∧ empty4.occ = 0 := by decide
theorem witness_DrainDataLanes : full4.Ready ∧ empty4.Ready ∧ 3 < full4.params.capacity := by decide
theorem witness_FaultsOutsideTheInvariant_unwritten :
    let s := block p4 2 3 0 [(0, 0x11)]
    s.phase = .running ∧ s.head ≠ s.tail ∧ s.tail < s.params.capacity ∧ s.stor.find s.tail = none ∧
    3 ≤ s.occ ∧ ¬s.LiveWritten := ⟨by decide, by decide, by decide, by decide, by decide, by decide⟩
theorem witness_FaultsOutsideTheInvariant_range :
    ((block p4 0 4 0 []).phase = .running ∧ (block p4 0 4 0 []).head ≠ (block p4 0 4 0 []).tail ∧
      (block p4 0 4 0 []).params.capacity ≤ (block p4 0 4 0 []).tail) ∧
    (block p4 4 0 0 []).phase = .running ∧ (block p4 4 0 0 []).params.capacity ≤ (block p4 4 0 0 []).head := by decide
theorem witness_OnlyWriteStores :
    (∃ t, exec (.write 0x44) full4 = .next t) ∧ producerOf (.write 0x44) = some 0x44 ∧
    (∃ t, exec .reset full4 = .next t) ∧ producerOf .reset = none := ⟨⟨_, rfl⟩, rfl, ⟨_, rfl⟩, rfl⟩
theorem witness_IndicesMoveOnlyAsNamed :
    (∃ t, exec (.write 0x44) full4 = .next t ∧ t.tail ≠ full4.tail) ∧ Instr.write 0x44 ≠ .reset :=
  ⟨⟨_, rfl, by decide⟩, by decide⟩
theorem witness_DropCounterCountsDrops :
    (∃ t, exec (.write 0x44) full4 = .next t ∧ t.out.map (·.wrDrop) = some true) ∧
    (∃ t, exec .read full4 = .next t ∧ t.out.map (·.wrDrop) = some false) ∧
    (∃ t, exec .reset full4 = .next t) ∧ full4.phase = .running :=
  ⟨⟨_, rfl, by decide⟩, ⟨_, rfl, by decide⟩, ⟨_, rfl⟩, by decide⟩
theorem witness_UndrivenResponsesAreZero :
    (∃ t, exec .nop full4 = .next t) ∧ consumerOf .nop ≠ .read ∧ producerOf .nop = none :=
  ⟨⟨_, rfl⟩, by decide, rfl⟩
theorem witness_OutputsFitTheirPorts : full4.Ready := by decide
theorem witness_OccupancyTransitions : full4.Ready ∧ 3 ≤ full4.occ ∧ full4.occ < 4 := by decide
theorem witness_FirstResetOutputs : powerUp4.phase = .unreset := by decide
theorem witness_OccupancyStateTransitions_four :
    (empty4.Ready ∧ empty4.occState = .EMPTY ∧ empty4.occ < 1 ∧ 0 ≤ empty4.occ ∧ 3 ≤ empty4.params.capacity) ∧
    (part4.Ready ∧ part4.occState = .PARTIAL ∧ part4.occ < 3 ∧ 2 ≤ part4.occ) ∧
    (full4.Ready ∧ full4.occState = .FULL ∧ full4.occ < 4 ∧ 3 ≤ full4.occ) :=
  ⟨by decide, by decide, by decide⟩
theorem witness_OccupancyStateTransitions_small :
    ((block p2 0 0 0 []).Ready ∧ (block p2 0 0 0 []).occState = .EMPTY ∧ (block p2 0 0 0 []).params.capacity = 2) ∧
    ((block p2 1 0 0 [(0, 1)]).Ready ∧ (block p2 1 0 0 [(0, 1)]).occState = .FULL ∧
      1 ≤ (block p2 1 0 0 [(0, 1)]).occ) ∧
    (only1.Ready ∧ only1.params.capacity = 1) := ⟨by decide, by decide, by decide⟩
theorem witness_StepKeepsInvariant :
    (full4.under [0x0144]).Inv ∧ (∃ t, step (full4.under [0x0144]) = .next t) ∧
    (powerUp4.under [0x0800]).Inv ∧ ∃ t, step (powerUp4.under [0x0800]) = .next t :=
  ⟨by decide, ⟨_, rfl⟩, by decide, ⟨_, rfl⟩⟩
theorem witness_EveryAdmittedCycleCompletes :
    full4.Ready ∧ (full4.under [0x0144]).Inv ∧ (full4.under [0x0144]).stimulus = 0x0144 :: [] ∧
    0x0144 < 2 ^ (full4.under [0x0144]).params.cwW ∧ (full4.under [0x0144]).phase = .running ∧
    (powerUp4.under [0x0800]).Inv ∧ Nat.testBit 0x0800 11 = true := by decide
theorem witness_CircularBufferRefinesList : full4.Ready ∧ empty4.Ready ∧ only1.Ready := by decide
/-- Two different states with the same list: `[11, 22]` at slots 0, 1 and at slots 3, 0. -/
theorem witness_ListAndCounterDecideOutputs :
    let s := part4.under [0x0200]
    let u := (block p4 1 3 0 [(0, 0x22), (3, 0x11)]).under [0x0200]
    s ≠ u ∧ s.Ready ∧ u.Ready ∧ s.params = u.params ∧ s.abs = u.abs ∧ s.stimulus = u.stimulus ∧
    ∃ t, RunsTo (0 + 1) s t :=
  ⟨by decide, by decide, by decide, rfl, by decide, rfl, _, rfl⟩
theorem witness_OverwriteKeepsTheNewest :
    full4.Ready ∧ full4.params.capacity - 1 ≤ [(0xA1 : Byte), 0xA2, 0xA3].length := by decide
theorem witness_FirstInFirstOut :
    empty4.Ready ∧ empty4.live = [] ∧ [(0xA1 : Byte), 0xA2, 0xA3].length ≤ empty4.params.capacity - 1 ∧
    2 < [(0xA1 : Byte), 0xA2, 0xA3].length := by decide
theorem witness_CycleKeepsBytesInOrder : full4.Ready ∧ Instr.write 0x44 ≠ .reset := by decide
theorem witness_ReturnedBytesAreInWriteOrder :
    full4.Ready ∧ Instr.reset ∉ [.write 0x44, .read, .writeRead 0x55, .drain 4, .writeDrain 0x66 2] := by decide
/-- 45_cycle.md R123's buffer: a WRITE alone drops the oldest byte, which the READ after it no longer returns. -/
theorem test_perform_drop_then_read :
    (full4.perform [.write 0x44, .read]).map (fun r => (bytesReturned r.1, dropEvents r.1, r.2.live)) =
      some ([0x22], 1, [0x33, 0x44]) := by decide
theorem witness_OccupancyMovesOnlyAsNamed :
    full4.Ready ∧ (∃ t, exec .read full4 = .next t ∧ t.live.length < full4.live.length) ∧
    part4.Ready ∧ ∃ t, exec (.write 0x44) part4 = .next t ∧ part4.live.length < t.live.length :=
  ⟨by decide, ⟨_, rfl, by decide⟩, by decide, _, rfl, by decide⟩
theorem witness_SeenBytesCanBeRead :
    part4.Ready ∧ [0x0200, 0x0305] ≠ [] ∧ [0x0200, 0x0305].length ≤ part4.occ ∧
    decode part4.params 0x0200 = .ok .read ∧ decode part4.params 0x0305 = .ok (.writeRead 0x05) :=
  ⟨by decide, by decide, by decide, rfl, rfl⟩
theorem witness_EmptyReadsChangeNothing : empty4.phase = .running ∧ empty4.head = empty4.tail := by decide
theorem witness_WrittenByteReadInNextCycle :
    empty4.Ready ∧ empty4.live = [] ∧ 2 ≤ empty4.params.capacity := by decide

end Sys2Proof.Tests
end

section
/-! SUPPORT and PROOF. `clog2` as the least exponent, the ranges the derived widths hold, and O5 (00_scope.md R8). -/

namespace Sys2Proof

/-- `clog2 n` is the least exponent of R8: it lies below exactly those `k` whose power of two reaches `n`. -/
theorem clog2_le_iff {n k : Nat} : clog2 n ≤ k ↔ n ≤ 2 ^ k := by
  obtain ⟨large_enough, smaller_fail⟩ := clog2_spec n
  constructor
  · intro hk
    calc n ≤ 2 ^ clog2 n := large_enough
      _ ≤ 2 ^ k := Nat.pow_le_pow_right Nat.two_pos hk
  · intro hn
    by_contra hk
    have : 2 ^ k < n := smaller_fail k (Nat.not_le.mp hk)
    omega

/-- `IDX_W` bits hold every slot number, the largest of which is `C - 1`. -/
theorem capacity_le_two_pow_idxW (p : Params) : p.capacity ≤ 2 ^ p.idxW :=
  clog2_le_iff.mp (Nat.le_max_right 1 (clog2 p.capacity))

/-- `OCC_W` bits hold the largest occupancy, `C - 1`. -/
theorem capacity_sub_one_lt_occW (p : Params) : p.capacity - 1 < 2 ^ p.occW :=
  Nat.sub_one_lt_of_le p.capacity_pos (capacity_le_two_pow_idxW p)

/-- The widths of an instance follow from the two values of `clog2` at its capacity. -/
theorem widths_of_capacity_eq {p : Params} {C idx th : Nat} (hC : p.capacity = C)
    (hidx : max 1 (clog2 C) = idx) (hth : clog2 (C + 1) = th) :
    p.idxW = idx ∧ p.thW = th ∧ p.cwW = 12 + th := by
  subst hC hidx hth
  exact ⟨rfl, rfl, rfl⟩

/-- Settles O5: the least-exponent law of `clog2`, the ranges it gives the widths, and the three instances of R8. -/
theorem derivedWidths : Obligations.DerivedWidths := by
  unfold Obligations.DerivedWidths
  refine ⟨fun n => ?least, fun p => ?widths, fun _ hC => ?four, fun _ hC => ?fifty, fun _ hC => ?one⟩
  case least => exact ⟨clog2_le_iff.mp le_rfl, fun _ => clog2_le_iff.mpr⟩
  case widths =>
    exact ⟨rfl, rfl, rfl, capacity_sub_one_lt_occW p, rfl, capacity_lt_thW p, rfl, p.dropW_pos, cwW_eq p⟩
  case four => exact widths_of_capacity_eq hC (by decide) (by decide)
  case fifty => exact widths_of_capacity_eq hC (by decide) (by decide)
  case one => exact widths_of_capacity_eq hC (by decide) (by decide)

end Sys2Proof
end

section
/-! SUPPORT and PROOF. The occupancy, empty and full, and the live slots and bytes of one state: O14 and O15
(10_state.md R24 to R28). -/

namespace Sys2Proof.Machine

theorem isEmpty_iff {s : State} : s.isEmpty = true ↔ s.head = s.tail := by simp [State.isEmpty]

theorem isFull_iff {s : State} : s.isFull = true ↔ inc s.params s.head = s.tail := by simp [State.isFull]

/-- The modulus of the occupancy formula bounds it in every state, in range or not. -/
theorem occ_lt (s : State) : s.occ < s.params.capacity := by
  have hC : (0 : Int) < s.params.capacity := by exact_mod_cast s.params.capacity_pos
  have lower := Int.emod_nonneg ((s.head : Int) - s.tail + s.params.capacity) hC.ne'
  have upper := Int.emod_lt_of_pos ((s.head : Int) - s.tail + s.params.capacity) hC
  unfold State.occ
  omega

section InRange

variable {s : State} (hh : s.head < s.params.capacity) (ht : s.tail < s.params.capacity)
include hh ht

theorem isEmpty_iff_occ : s.isEmpty = true ↔ s.occ = 0 := by
  have := occ_cases s hh ht
  rw [isEmpty_iff]
  omega

theorem isFull_iff_occ : s.isFull = true ↔ s.occ = s.params.capacity - 1 := by
  have := occ_cases s hh ht
  have := inc_cases s.params hh
  rw [isFull_iff]
  omega

/-- The slot `i` places after `tail` is `head` only for `i = occ`, one past the youngest byte. -/
theorem head_notMem_liveSlots : s.head ∉ s.liveSlots := by
  have := occ_cases s hh ht
  simp only [State.liveSlots, List.mem_map, List.mem_range, not_exists, not_and]
  intro i hi
  have := mod_cases (a := s.tail + i) (c := s.params.capacity) (by omega)
  omega

theorem liveSlots_nodup : s.liveSlots.Nodup := by
  refine List.nodup_range.map_on fun i hi j hj heq => ?_
  rw [List.mem_range] at hi hj
  have := occ_lt s
  have := mod_cases (a := s.tail + i) (c := s.params.capacity) (by omega)
  have := mod_cases (a := s.tail + j) (c := s.params.capacity) (by omega)
  omega

/-- With `C - 1` live slots every slot but `head` is live: its distance from `tail` is below `C - 1`. -/
theorem mem_liveSlots_of_full (hf : s.isFull = true) {a : Nat} (ha : a < s.params.capacity) (hne : a ≠ s.head) :
    a ∈ s.liveSlots := by
  have hocc := (isFull_iff_occ hh ht).mp hf
  have := occ_cases s hh ht
  simp only [State.liveSlots, List.mem_map, List.mem_range]
  rcases Nat.lt_or_ge a s.tail with hlt | hge
  · have := mod_cases (a := s.tail + (a + s.params.capacity - s.tail)) (c := s.params.capacity) (by omega)
    exact ⟨a + s.params.capacity - s.tail, by omega, by omega⟩
  · have := mod_cases (a := s.tail + (a - s.tail)) (c := s.params.capacity) (by omega)
    exact ⟨a - s.tail, by omega, by omega⟩

end InRange

theorem liveSlots_getElem? {s : State} {i : Nat} (hi : i < s.occ) :
    s.liveSlots[i]? = some ((s.tail + i) % s.params.capacity) := by
  simp [State.liveSlots, hi]

/-- Where every live slot is written, the live bytes are theirs, slot by slot. -/
theorem live_forall₂ {s : State} (hw : s.LiveWritten) :
    List.Forall₂ (fun a b => s.stor.find a = some b) s.liveSlots s.live := by
  unfold State.live
  unfold State.LiveWritten at hw
  generalize s.liveSlots = slots at hw
  induction slots with
  | nil => exact .nil
  | cons a slots ih =>
    obtain ⟨b, hb⟩ := Option.isSome_iff_exists.mp (hw a List.mem_cons_self)
    rw [List.filterMap_cons_some hb]
    exact .cons hb (ih fun a' ha' => hw a' (List.mem_cons_of_mem a ha'))

theorem live_length {s : State} (hw : s.LiveWritten) : s.live.length = s.occ := by
  rw [← (live_forall₂ hw).length_eq, liveSlots_length]

theorem live_getElem? {s : State} (hw : s.LiveWritten) {i : Nat} (hi : i < s.occ) :
    s.live[i]? = s.stor.find ((s.tail + i) % s.params.capacity) := by
  have hslot := liveSlots_getElem? hi
  obtain ⟨h1, h2⟩ := List.getElem?_eq_some_iff.mp hslot
  have h3 : i < s.live.length := by rwa [live_length hw]
  have hfind := (live_forall₂ hw).get h1 h3
  simp only [List.get_eq_getElem, h2] at hfind
  rw [hfind, List.getElem?_eq_getElem h3]

/-- Settles O14: the bound is the formula's modulus, and the four clauses compare `head` and `tail` with the occupancy. -/
theorem fullAndEmptyByOccupancy : Obligations.FullAndEmptyByOccupancy := by
  unfold Obligations.FullAndEmptyByOccupancy
  intro s
  have hlt := occ_lt s
  refine ⟨by omega, isEmpty_iff, isFull_iff, fun hh ht => ?_⟩
  have hempty := isEmpty_iff_occ hh ht
  have hfull := isFull_iff_occ hh ht
  refine ⟨hempty, hfull, fun hC => ⟨hempty.mpr (by omega), hfull.mpr (by omega)⟩, fun hC ⟨he, hf⟩ => ?_⟩
  have := hempty.mp he
  have := hfull.mp hf
  omega

/-- Settles O15: the slots by their definition, the bytes slot by slot, and the two facts about the slot at `head`. -/
theorem liveSlotsOfAState : Obligations.LiveSlotsOfAState := by
  unfold Obligations.LiveSlotsOfAState
  intro s hh ht
  have hhead := head_notMem_liveSlots hh ht
  refine ⟨liveSlots_length s, liveSlots_nodup hh ht, fun i => liveSlots_getElem?,
    fun hw => ⟨live_length hw, fun i => live_getElem? hw⟩, hhead, fun _ hfull a ha => ⟨?_, ?_⟩⟩
  · rintro hlive rfl
    exact hhead hlive
  · exact mem_liveSlots_of_full hh ht hfull ha

end Sys2Proof.Machine
end

section
/-! SUPPORT and PROOF. What an operation leaves unchanged: O31, O32 and O33 (10_state.md R20, R22, R23). -/

namespace Sys2Proof.Machine

/-- The consumer half moves `tail` only for a READ or a firing DRAIN. -/
theorem consume_tail_ne {s m : State} {c : ConsumerOp} {co : ConsumerOut} (hc : s.consume c = .ok (co, m))
    (hne : m.tail ≠ s.tail) : c = .read ∨ ∃ th, c = .drain th ∧ th ≤ s.occ := by
  cases c with
  | none => cases hc; exact absurd rfl hne
  | reserved => cases hc; exact absurd rfl hne
  | read => exact .inl rfl
  | drain th =>
    rcases drainOp_ok.mp hc with ⟨hfires, -⟩ | ⟨-, -, rfl⟩
    · exact .inr ⟨th, rfl, hfires⟩
    · exact absurd rfl hne

/-- The producer half: nothing, or the WRITE with the full flag as `wr_drop`. -/
theorem produce_ok {m t : State} {w : Option Byte} {drop : Bool} :
    m.produce w = .ok (drop, t) ↔
      (w = none ∧ drop = false ∧ t = m) ∨
      ∃ b, w = some b ∧ m.head < m.params.capacity ∧ drop = m.isFull ∧ t = m.pushed b := by
  cases w with
  | none => simp [eq_comm]
  | some b => simp [writeOp_ok]

section Produce

variable {m t : State} {w : Option Byte} {drop : Bool} (hw : m.produce w = .ok (drop, t))
include hw

theorem produce_params : t.params = m.params := by
  rcases produce_ok.mp hw with ⟨-, -, rfl⟩ | ⟨b, -, -, -, rfl⟩ <;> rfl

theorem produce_stimulus : t.stimulus = m.stimulus := by
  rcases produce_ok.mp hw with ⟨-, -, rfl⟩ | ⟨b, -, -, -, rfl⟩ <;> rfl

theorem produce_phase : t.phase = m.phase := by
  rcases produce_ok.mp hw with ⟨-, -, rfl⟩ | ⟨b, -, -, -, rfl⟩ <;> rfl

theorem produce_stor : t.stor = w.elim m.stor (m.stor.store m.head) := by
  rcases produce_ok.mp hw with ⟨rfl, -, rfl⟩ | ⟨b, rfl, -, -, rfl⟩ <;> rfl

theorem produce_head : t.head = if w.isSome then inc m.params m.head else m.head := by
  rcases produce_ok.mp hw with ⟨rfl, -, rfl⟩ | ⟨b, rfl, -, -, rfl⟩ <;> rfl

theorem produce_tail : t.tail = if drop then inc m.params m.tail else m.tail := by
  rcases produce_ok.mp hw with ⟨-, rfl, rfl⟩ | ⟨b, -, -, rfl, rfl⟩ <;> rfl

theorem produce_dropCount :
    t.dropCount = if drop then (m.dropCount + 1) % 2 ^ m.params.dropW else m.dropCount := by
  rcases produce_ok.mp hw with ⟨-, rfl, rfl⟩ | ⟨b, -, -, rfl, rfl⟩ <;> rfl

end Produce

theorem exec_reset (s : State) : exec .reset s = .next s.resetEdge := rfl

/-- What a completed cycle did to the state, with the pre-edge state in every equation but the one for `tail`, the only
field the consumer half writes. -/
structure State.CycleEffect (s t : State) (i : Instr) (o : Outputs) : Prop where
  running : s.phase = .running
  params : t.params = s.params
  phase : t.phase = .running
  stimulus : t.stimulus = s.stimulus
  out : t.out = some o
  status : o.status = s.status
  stor : t.stor = (producerOf i).elim s.stor (s.stor.store s.head)
  head : t.head = if (producerOf i).isSome then inc s.params s.head else s.head
  tail_ne : t.tail ≠ s.tail →
    consumerOf i = .read ∨ (∃ th, consumerOf i = .drain th ∧ th ≤ s.occ) ∨ o.wrDrop = true
  dropCount : t.dropCount = if o.wrDrop then (s.dropCount + 1) % 2 ^ s.params.dropW else s.dropCount

/-- Every operation that answers a next state is the reset edge or a cycle with the effect above. -/
theorem exec_next {i : Instr} {s t : State} (h : exec i s = .next t) :
    (i = .reset ∧ t = s.resetEdge) ∨ (i ≠ .reset ∧ ∃ o, s.CycleEffect t i o) := by
  by_cases hi : i = .reset
  · subst hi
    cases h
    exact .inl ⟨rfl, rfl⟩
  rw [exec_eq_cycle hi] at h
  obtain ⟨hrun, co, m, drop, u, hc, hw, rfl⟩ := cycle_next.mp h
  have hm := consume_frame hc
  have htail := consume_tail_ne hc
  generalize m.tail = mtail at hm htail
  subst hm
  refine .inr ⟨hi, _, {
    running := hrun
    params := (produce_params hw :)
    phase := (produce_phase hw).trans hrun
    stimulus := (produce_stimulus hw :)
    out := rfl
    status := rfl
    stor := (produce_stor hw :)
    head := (produce_head hw :)
    tail_ne := fun hne => ?_
    dropCount := (produce_dropCount hw :) }⟩
  cases drop with
  | true => exact .inr (.inr rfl)
  | false => exact or_assoc.mp (.inl (htail fun heq => hne ((produce_tail hw).trans heq)))

theorem exec_params {i : Instr} {s t : State} (h : exec i s = .next t) : t.params = s.params := by
  rcases exec_next h with ⟨-, rfl⟩ | ⟨-, o, effect⟩
  · rfl
  · exact effect.params

theorem exec_stimulus {i : Instr} {s t : State} (h : exec i s = .next t) : t.stimulus = s.stimulus := by
  rcases exec_next h with ⟨-, rfl⟩ | ⟨-, o, effect⟩
  · rfl
  · exact effect.stimulus

theorem exec_phase {i : Instr} {s t : State} (h : exec i s = .next t) : t.phase = .running := by
  rcases exec_next h with ⟨-, rfl⟩ | ⟨-, o, effect⟩
  · rfl
  · exact effect.phase

theorem exec_stor {i : Instr} {s t : State} (h : exec i s = .next t) :
    t.stor = (producerOf i).elim s.stor (s.stor.store s.head) := by
  rcases exec_next h with ⟨rfl, rfl⟩ | ⟨-, o, effect⟩
  · rfl
  · exact effect.stor

/-- Settles O31: the storage after a cycle is the storage before it or one `store` at `head`. -/
theorem onlyWriteStores : Obligations.OnlyWriteStores := by
  unfold Obligations.OnlyWriteStores
  intro i s t h
  have hstor := exec_stor h
  refine ⟨exec_params h, exec_stimulus h, fun wd hwd => ?_, fun hnone a => ?_⟩
  · rw [hwd, Option.elim_some] at hstor
    rw [hstor]
    exact ⟨find_store_self _ _ _, fun a ha => find_store_other _ _ ha.symm⟩
  · rw [hstor, hnone, Option.elim_none]

/-- Settles O32 from the `head` and `tail` clauses of the effect of a cycle. -/
theorem indicesMoveOnlyAsNamed : Obligations.IndicesMoveOnlyAsNamed := by
  unfold Obligations.IndicesMoveOnlyAsNamed
  intro i s t h
  rcases exec_next h with ⟨hi, -⟩ | ⟨-, o, effect⟩
  · exact ⟨fun hne => absurd hi hne, fun _ => .inl hi⟩
  · refine ⟨fun _ => effect.head, fun hne => .inr ?_⟩
    rcases effect.tail_ne hne with hread | hdrain | hdrop
    · exact .inl hread
    · exact .inr (.inl hdrain)
    · exact .inr (.inr ⟨o, effect.out, hdrop⟩)

/-- Settles O33: `wr_drop` is the condition under which the effect of a cycle counts. -/
theorem dropCounterCountsDrops : Obligations.DropCounterCountsDrops := by
  unfold Obligations.DropCounterCountsDrops
  intro i s t h
  have shown (hrun : s.phase = .running) : s.status.dropCount = s.dropCount := by
    rw [status_running s hrun]; rfl
  rcases exec_next h with ⟨hi, rfl⟩ | ⟨hi, o, effect⟩
  · exact ⟨_, rfl, fun _ => rfl, absurd hi, absurd hi, shown⟩
  · have hcount := effect.dropCount
    refine ⟨o, effect.out, fun hreset => absurd hreset hi, fun _ hdrop => ?_, fun _ hdrop => ?_, fun hrun => ?_⟩
    · rw [hcount, if_pos hdrop]
    · rw [hcount, hdrop, if_neg Bool.false_ne_true]
    · rw [effect.status, shown hrun]

end Sys2Proof.Machine
end

section
/-! SUPPORT and PROOF. The reset edge and the ready states: O13 and O38 (10_state.md R21, R30, R33). -/

namespace Sys2Proof.Machine

/-- `Ready`, flat: the conjuncts of the invariant of a block that has been reset. -/
theorem ready_iff {s : State} : s.Ready ↔
    s.stor.wf ∧ s.SlotsExist ∧ s.phase = .running ∧
      s.head < s.params.capacity ∧ s.tail < s.params.capacity ∧ s.dropCount < 2 ^ s.params.dropW ∧
      s.LiveWritten := by
  constructor
  · rintro ⟨⟨hwf, hexist, hrun⟩, hphase⟩
    obtain ⟨⟨hh, ht, hd⟩, hw⟩ := hrun hphase
    exact ⟨hwf, hexist, hphase, hh, ht, hd, hw⟩
  · rintro ⟨hwf, hexist, hphase, hh, ht, hd, hw⟩
    exact ⟨⟨hwf, hexist, fun _ => ⟨⟨hh, ht, hd⟩, hw⟩⟩, hphase⟩

theorem liveWritten_of_occ_zero {s : State} (h : s.occ = 0) : s.LiveWritten := by
  simp [State.LiveWritten, liveSlots_of_occ_zero s h]

theorem live_of_occ_zero {s : State} (h : s.occ = 0) : s.live = [] := by
  simp [State.live, liveSlots_of_occ_zero s h]

/-- Equal indices leave nothing live, in range or not (10_state.md R24). -/
theorem occ_of_head_eq_tail {s : State} (h : s.head = s.tail) : s.occ = 0 := by simp [State.occ, h]

theorem resetEdge_occ (s : State) : s.resetEdge.occ = 0 := occ_of_head_eq_tail rfl

/-- The registers of a reset edge are in range whatever the parameters; only the storage is taken over. -/
theorem ready_resetEdge {s : State} (hwf : s.stor.wf) (hexist : s.SlotsExist) : s.resetEdge.Ready :=
  ready_iff.mpr ⟨hwf, hexist, rfl, s.params.capacity_pos, s.params.capacity_pos, by simp,
    liveWritten_of_occ_zero (resetEdge_occ s)⟩

theorem ready_resetFor (p : Params) : (State.resetFor p).Ready :=
  ready_iff.mpr ⟨.nil, by simp [State.SlotsExist], rfl, p.capacity_pos, p.capacity_pos, by simp,
    liveWritten_of_occ_zero (occ_of_head_eq_tail rfl)⟩

/-- Settles O13: indices both 0 are an empty range, full exactly where `inc 0 = 0`. -/
theorem stateAfterReset : Obligations.StateAfterReset := by
  unfold Obligations.StateAfterReset
  intro s
  have hocc := resetEdge_occ s
  have hfull : s.resetEdge.isFull = true ↔ s.params.capacity = 1 := by
    have := s.params.capacity_pos
    rw [isFull_iff_occ (s := s.resetEdge) s.params.capacity_pos s.params.capacity_pos, hocc, resetEdge_params]
    omega
  exact ⟨s.resetEdge, exec_reset s, rfl, rfl, rfl, rfl, hocc, isEmpty_iff.mpr rfl, hfull,
    by simp [State.occState, OccState.ofOcc, hocc], live_of_occ_zero hocc⟩

/-- Settles O38: `State.reset` is `State.resetFor` of the parameters it fixes. -/
theorem resetIsReady : Obligations.ResetIsReady := by
  unfold Obligations.ResetIsReady
  exact ⟨ready_resetFor Config.resetParams, ready_resetFor⟩

end Sys2Proof.Machine
end

section
/-! SUPPORT. How READ, DRAIN and WRITE move the live bytes, and that each keeps a ready state ready
(10_state.md R28, R30; 41_write.md R73, R74). -/

namespace Sys2Proof.Machine

/-- A WRITE to a slot outside a list of slots leaves their bytes. -/
theorem filterMap_find_store {slots : List Nat} {a : Nat} (ha : a ∉ slots) (m : Memory) (b : Byte) :
    slots.filterMap (m.store a b).find = slots.filterMap m.find :=
  List.filterMap_congr fun _ hx => find_store_other m b (ne_of_mem_of_not_mem hx ha).symm

/-- Overwriting a list at its capacity loses exactly its oldest byte (45_cycle.md R121). -/
theorem lastK_cons_append {k : Nat} {x b : Byte} {xs : List Byte} (h : xs.length + 1 = k) :
    lastK k (x :: xs ++ [b]) = xs ++ [b] := by
  simp [lastK, ← h]

theorem lastK_of_length_le {k : Nat} {xs : List Byte} (h : xs.length ≤ k) : lastK k xs = xs := by
  rw [lastK, Nat.sub_eq_zero_of_le h, List.drop_zero]

theorem lastK_zero (xs : List Byte) : lastK 0 xs = [] := by simp [lastK]

section InRange

variable {s : State} (hh : s.head < s.params.capacity) (ht : s.tail < s.params.capacity)
include hh ht

/-- A full buffer of at least two slots is not empty (10_state.md R27). -/
theorem head_ne_tail_of_full (hC : 2 ≤ s.params.capacity) (hf : s.isFull = true) : s.head ≠ s.tail := by
  have := (isFull_iff_occ hh ht).mp hf
  have := occ_cases s hh ht
  omega

theorem mem_liveSlots_of_popped (hne : s.head ≠ s.tail) {a : Nat} (ha : a ∈ s.popped.liveSlots) :
    a ∈ s.liveSlots := by
  rw [liveSlots_eq_cons_popped s hh ht hne]
  exact List.mem_cons_of_mem _ ha

/-- A READ on a non-empty buffer with written live slots takes the head of the list of live bytes. -/
theorem live_eq_cons_popped (hw : s.LiveWritten) (hne : s.head ≠ s.tail) :
    ∃ b, s.stor.find s.tail = some b ∧ s.live = b :: s.popped.live := by
  have hslots := liveSlots_eq_cons_popped s hh ht hne
  obtain ⟨b, hb⟩ := Option.isSome_iff_exists.mp (hw s.tail (by simp [hslots]))
  refine ⟨b, hb, ?_⟩
  unfold State.live
  rw [hslots, List.filterMap_cons_some hb, popped_stor]

theorem live_pushed_of_room (b : Byte) (hf : s.isFull = false) : (s.pushed b).live = s.live ++ [b] := by
  unfold State.live
  rw [liveSlots_pushed_of_room s b hh ht hf, List.filterMap_append, pushed_stor,
    filterMap_find_store (head_notMem_liveSlots hh ht)]
  simp

theorem live_pushed_of_full (b : Byte) (hC : 2 ≤ s.params.capacity) (hf : s.isFull = true) :
    (s.pushed b).live = s.popped.live ++ [b] := by
  have hhead : s.head ∉ s.popped.liveSlots := fun hmem =>
    head_notMem_liveSlots hh ht (mem_liveSlots_of_popped hh ht (head_ne_tail_of_full hh ht hC hf) hmem)
  unfold State.live
  rw [liveSlots_pushed_of_full s b hh ht hC hf, List.filterMap_append, pushed_stor, popped_stor,
    filterMap_find_store hhead]
  simp

/-- The three cases of a WRITE as one: the newest `C - 1` of the live bytes and the new one. With `C = 1` that is none
(41_write.md R76). -/
theorem live_pushed (hw : s.LiveWritten) (b : Byte) :
    (s.pushed b).live = lastK (s.params.capacity - 1) (s.live ++ [b]) := by
  have hlen := live_length hw
  have hlt := occ_lt s
  cases hf : s.isFull with
  | false =>
    have hroom : s.occ ≠ s.params.capacity - 1 := fun h => by simp [(isFull_iff_occ hh ht).mpr h] at hf
    rw [live_pushed_of_room hh ht b hf, lastK_of_length_le]
    simp only [List.length_append, List.length_singleton]
    omega
  | true =>
    have hocc := (isFull_iff_occ hh ht).mp hf
    rcases Nat.lt_or_ge s.params.capacity 2 with hC | hC
    · have := occ_lt (s.pushed b)
      rw [pushed_params] at this
      rw [live_of_occ_zero (by omega), show s.params.capacity - 1 = 0 by omega, lastK_zero]
    · obtain ⟨x, -, hlive⟩ := live_eq_cons_popped hh ht hw (head_ne_tail_of_full hh ht hC hf)
      rw [live_pushed_of_full hh ht b hC hf, hlive, lastK_cons_append]
      rw [hlive, List.length_cons] at hlen
      omega

theorem mem_liveSlots_of_pushed {b : Byte} {a : Nat} (ha : a ∈ (s.pushed b).liveSlots) :
    a ∈ s.liveSlots ∨ a = s.head := by
  cases hf : s.isFull with
  | false =>
    rw [liveSlots_pushed_of_room s b hh ht hf] at ha
    simpa using ha
  | true =>
    rcases Nat.lt_or_ge s.params.capacity 2 with hC | hC
    · have := occ_lt (s.pushed b)
      rw [pushed_params] at this
      simp [liveSlots_of_occ_zero (s.pushed b) (by omega)] at ha
    · rw [liveSlots_pushed_of_full s b hh ht hC hf, List.mem_append, List.mem_singleton] at ha
      exact ha.imp_left (mem_liveSlots_of_popped hh ht (head_ne_tail_of_full hh ht hC hf))

end InRange

section Ready

variable {s : State} (hs : s.Ready)
include hs

theorem ready_popped (hne : s.head ≠ s.tail) : s.popped.Ready := by
  obtain ⟨hwf, hexist, hrun, hh, ht, hd, hw⟩ := ready_iff.mp hs
  exact ready_iff.mpr ⟨hwf, hexist, hrun, hh, inc_lt _ _, hd,
    fun a ha => hw a (mem_liveSlots_of_popped hh ht hne ha)⟩

theorem ready_drained : s.drained.Ready := by
  obtain ⟨hwf, hexist, hrun, hh, -, hd, -⟩ := ready_iff.mp hs
  exact ready_iff.mpr ⟨hwf, hexist, hrun, hh, hh, hd, liveWritten_of_occ_zero (occ_drained s)⟩

/-- The slot at `head` joins the live ones only as the WRITE writes it (10_state.md R30). -/
theorem ready_pushed (b : Byte) : (s.pushed b).Ready := by
  obtain ⟨hwf, hexist, hrun, hh, ht, hd, hw⟩ := ready_iff.mp hs
  refine ready_iff.mpr ⟨store_wf hwf _ _, fun c hc => ?exist, hrun, inc_lt _ _, ?tail, ?drop, fun a ha => ?written⟩
  case exist =>
    rcases key_of_mem_store hc with heq | hmem
    · simpa [heq] using hh
    · exact hexist c hmem
  case tail =>
    rw [pushed_tail]
    split
    · exact inc_lt _ _
    · exact ht
  case drop =>
    rw [pushed_dropCount]
    split
    · exact Nat.mod_lt _ (Nat.two_pow_pos _)
    · exact hd
  case written =>
    rw [pushed_stor, find_store]
    split
    · rfl
    · next hne => exact hw a ((mem_liveSlots_of_pushed hh ht ha).resolve_right (Ne.symm hne))

end Ready

end Sys2Proof.Machine
end

section
/-! SUPPORT. The circular buffer follows the list model of 45_cycle.md R121, half by half, for one operation. -/

namespace Sys2Proof.Machine

theorem readSlots_live {s : State} (hw : s.LiveWritten) : s.readSlots s.liveSlots = .ok s.live := by
  refine readSlots_ok.mpr (List.forall₂_iff_get.mpr ⟨(live_forall₂ hw).length_eq, fun i h1 h2 => ⟨?_, ?_⟩⟩)
  · exact lt_of_mem_liveSlots (List.getElem_mem h1)
  · exact (live_forall₂ hw).get h1 h2

/-- The status outputs of a ready state are the list model's (10_state.md R24 to R27). -/
theorem status_eq_abs_status {s : State} (hs : s.Ready) : s.status = s.abs.status s.params := by
  obtain ⟨-, -, hrun, hh, ht, -, hw⟩ := ready_iff.mp hs
  have hempty : s.isEmpty = decide (s.occ = 0) := Bool.eq_iff_iff.mpr (by simpa using isEmpty_iff_occ hh ht)
  have hfull : s.isFull = decide (s.occ = s.params.capacity - 1) :=
    Bool.eq_iff_iff.mpr (by simpa using isFull_iff_occ hh ht)
  simp [status_running s hrun, State.statusRunning, ListState.status, State.abs, live_length hw, hempty, hfull]

/-- The consumer half of a cycle from a ready state: the list model's outputs, and a ready state with the list model's
intermediate list. -/
theorem consume_refines {s : State} (hs : s.Ready) (c : ConsumerOp) :
    ∃ m, s.consume c = .ok ((s.abs.consume s.params c).1, m) ∧ m.Ready ∧ m.params = s.params ∧
      m.dropCount = s.dropCount ∧ m.live = (s.abs.consume s.params c).2 := by
  obtain ⟨-, -, -, hh, ht, -, hw⟩ := ready_iff.mp hs
  cases c with
  | none => exact ⟨s, rfl, hs, rfl, rfl, rfl⟩
  | reserved => exact ⟨s, rfl, hs, rfl, rfl, rfl⟩
  | read =>
    by_cases hne : s.head = s.tail
    · have hlive : s.live = [] := live_of_occ_zero (occ_of_head_eq_tail hne)
      have hop : s.readOp = .ok (ConsumerOut.zero s.params, s) :=
        readOp_ok.mpr (.inl ⟨isEmpty_iff.mpr hne, rfl, rfl⟩)
      refine ⟨s, ?_, hs, rfl, rfl, ?_⟩ <;> simp [ListState.consume, State.abs, hlive, hop]
    · obtain ⟨b, hb, hlive⟩ := live_eq_cons_popped hh ht hw hne
      have hempty : s.isEmpty = false := Bool.eq_false_iff.mpr (mt isEmpty_iff.mp hne)
      have hop := readOp_ok.mpr (.inr ⟨hempty, b, ht, hb, rfl, rfl⟩)
      refine ⟨s.popped, ?_, ready_popped hs hne, rfl, rfl, ?_⟩ <;> simp [ListState.consume, State.abs, hlive, hop]
  | drain th =>
    have hlen := live_length hw
    by_cases hfires : th ≤ s.occ
    · have hop := drainOp_ok.mpr (.inl ⟨hfires, s.live, readSlots_live hw, rfl, rfl⟩)
      have hlive : s.drained.live = [] := live_of_occ_zero (occ_drained s)
      refine ⟨s.drained, ?_, ready_drained hs, rfl, rfl, ?_⟩ <;>
        simp [ListState.consume, State.abs, hlen, hfires, hop, hlive]
    · have hop := drainOp_ok.mpr (.inr ⟨Nat.not_le.mp hfires, rfl, rfl⟩)
      refine ⟨s, ?_, hs, rfl, rfl, ?_⟩ <;> simp [ListState.consume, State.abs, hlen, hfires, hop]

/-- The producer half of a cycle from a ready state: the list model's `wr_drop`, list and counter, and a ready state. -/
theorem produce_refines {m : State} (hm : m.Ready) (w : Option Byte) :
    ∃ t, m.produce w = .ok ((ListState.produce m.params m.live m.dropCount w).1, t) ∧ t.Ready ∧
      t.abs = (ListState.produce m.params m.live m.dropCount w).2 := by
  obtain ⟨-, -, -, hh, ht, -, hw⟩ := ready_iff.mp hm
  cases w with
  | none => exact ⟨m, rfl, hm, rfl⟩
  | some b =>
    have hfull := isFull_iff_occ hh ht
    have hdrop : decide (m.live.length = m.params.capacity - 1) = m.isFull := by
      rw [live_length hw]
      exact Bool.eq_iff_iff.mpr (by simpa using hfull.symm)
    refine ⟨m.pushed b, ?_, ready_pushed hm b, ?_⟩
    · exact writeOp_ok.mpr ⟨hh, hdrop, rfl⟩
    · simp only [ListState.produce, State.abs, hdrop, live_pushed hh ht hw, pushed_dropCount]

/-- Every operation completes from a ready state, in a ready state, with the outputs, list and counter of the list model
(45_cycle.md R121). -/
theorem exec_refines {s : State} (hs : s.Ready) (i : Instr) :
    ∃ t, exec i s = .next t ∧ t.Ready ∧ t.out = some (ListState.step s.params s.abs i).1 ∧
      t.abs = (ListState.step s.params s.abs i).2 := by
  have hstatus := status_eq_abs_status hs
  obtain ⟨hwf, hexist, hrun, -⟩ := ready_iff.mp hs
  by_cases hi : i = .reset
  · subst hi
    refine ⟨s.resetEdge, exec_reset s, ready_resetEdge hwf hexist, ?_, ?_⟩
    · simp [ListState.step, ListState.resetEdge, hstatus]
    · simp [ListState.step, ListState.resetEdge, State.abs, live_of_occ_zero (resetEdge_occ s)]
  · obtain ⟨m, hc, hm, hparams, hcount, hlive⟩ := consume_refines hs (consumerOf i)
    obtain ⟨u, hw, hu, habs⟩ := produce_refines hm (producerOf i)
    rw [hparams, hcount, hlive] at hw habs
    refine ⟨_, (exec_eq_cycle hi s).trans (cycle_next.mpr ⟨hrun, _, _, _, _, hc, hw, rfl⟩), hu, ?_, ?_⟩
    · rw [driving_out, ListState.step, if_neg hi, hstatus]
      rfl
    · rw [driving_abs, habs, ListState.step, if_neg hi]
      rfl

/-- The same read from the answer: what a completed operation answered is what the list model gives. -/
theorem exec_next_refines {s t : State} {i : Instr} (hs : s.Ready) (h : exec i s = .next t) :
    t.Ready ∧ t.out = some (ListState.step s.params s.abs i).1 ∧ t.abs = (ListState.step s.params s.abs i).2 := by
  obtain ⟨t', h', refines⟩ := exec_refines hs i
  obtain rfl : t' = t := by simpa [h'] using h
  exact refines

end Sys2Proof.Machine
end

section
/-! PROOF. Every step keeps the invariant: O39 (10_state.md R20, R21, R30). -/

namespace Sys2Proof.Machine

/-- From a state of the invariant, reset or not, an operation that completes leaves a ready state. Before the first reset
only RESET completes, and it needs nothing of the registers (70_reset_and_hazards.md R152). -/
theorem exec_next_ready {s t : State} {i : Instr} (hs : s.Inv) (h : exec i s = .next t) : t.Ready := by
  have ⟨hwf, hexist, _⟩ := hs
  rcases exec_next h with ⟨-, rfl⟩ | ⟨-, o, effect⟩
  · exact ready_resetEdge hwf hexist
  · obtain ⟨ready, -⟩ := exec_next_refines ⟨hs, effect.running⟩ h
    exact ready

/-- Settles O39: a step is one operation on the state with its cycle word taken. -/
theorem stepKeepsInvariant : Obligations.StepKeepsInvariant := by
  unfold Obligations.StepKeepsInvariant
  intro s t hs h
  obtain ⟨cw, rest, i, -, -, hexec⟩ := step_next h
  obtain ⟨hinv, hrun⟩ := exec_next_ready ((under_inv s rest).mpr hs) hexec
  exact ⟨hinv, (exec_params hexec).trans (under_params s rest), hrun⟩

end Sys2Proof.Machine
end

section
/-! PROOF. The live list and the drop counter are all that is observable: O42 (10_state.md R29). -/

namespace Sys2Proof.Machine

/-- Two ready states with the same parameters, the same abstract state and the same coming cycle words; their index
positions and dead slots may differ. -/
structure State.ObsEq (s u : State) : Prop where
  ready_left : s.Ready
  ready_right : u.Ready
  params : s.params = u.params
  abs : s.abs = u.abs
  stimulus : s.stimulus = u.stimulus

/-- One step cannot tell the two apart: both sides are the same step of the list model. -/
theorem obsEq_step {s u t : State} (heq : s.ObsEq u) (h : step s = .next t) :
    ∃ v, step u = .next v ∧ t.ObsEq v ∧ v.out = t.out := by
  obtain ⟨cw, rest, i, hcw, hdecode, hexec⟩ := step_next h
  obtain ⟨ht, hout, habs⟩ := exec_next_refines ((under_ready s rest).mpr heq.ready_left) hexec
  obtain ⟨v, hexec', hv, hout', habs'⟩ := exec_refines ((under_ready u rest).mpr heq.ready_right) i
  have hfetch : u.fetch = .ok (i, u.under rest) :=
    fetch_ok.mpr ⟨cw, rest, heq.stimulus ▸ hcw, heq.params ▸ hdecode, rfl⟩
  have hstep : step u = .next v := by rw [step, hfetch]; exact hexec'
  rw [under_params, under_abs, heq.params, heq.abs] at hout habs
  refine ⟨v, hstep, { ready_left := ht, ready_right := hv, params := ?_, abs := ?_, stimulus := ?_ }, ?_⟩
  · rw [exec_params hexec, exec_params hexec', under_params, under_params, heq.params]
  · rw [habs, habs']; rfl
  · rw [exec_stimulus hexec, exec_stimulus hexec', under_stimulus, under_stimulus]
  · rw [hout, hout']; rfl

/-- The relation over a run: the last of its cycles drives equal outputs, and so, shorter runs first, does every one. -/
theorem obsEq_runsTo {k : Nat} {s u t : State} (heq : s.ObsEq u) (h : RunsTo (k + 1) s t) :
    ∃ v, RunsTo (k + 1) u v ∧ t.ObsEq v ∧ v.out = t.out := by
  induction k generalizing s u with
  | zero =>
    obtain ⟨s', hstep, hrest⟩ := runsTo_succ.mp h
    obtain rfl := runsTo_zero.mp hrest
    obtain ⟨v, hstep', heq', hout⟩ := obsEq_step heq hstep
    exact ⟨v, runsTo_succ.mpr ⟨v, hstep', runsTo_zero.mpr rfl⟩, heq', hout⟩
  | succ k ih =>
    obtain ⟨s', hstep, hrest⟩ := runsTo_succ.mp h
    obtain ⟨u', hstep', heq', -⟩ := obsEq_step heq hstep
    obtain ⟨v, hrun, heq'', hout⟩ := ih heq' hrest
    exact ⟨v, runsTo_succ.mpr ⟨u', hstep', hrun⟩, heq'', hout⟩

theorem live_length_le {s : State} (hs : s.Ready) : s.live.length ≤ s.params.capacity - 1 := by
  obtain ⟨-, -, -, -, -, -, hw⟩ := ready_iff.mp hs
  rw [live_length hw]
  exact Nat.le_sub_one_of_lt (occ_lt s)

/-- Settles O42, by the step lemma of `ObsEq` and induction on the length of the run. -/
theorem listAndCounterDecideOutputs : Obligations.ListAndCounterDecideOutputs := by
  unfold Obligations.ListAndCounterDecideOutputs
  refine ⟨fun s => live_length_le, fun k s u t hs hu hparams habs hstim hrun => ?_⟩
  have heq : s.ObsEq u :=
    { ready_left := hs, ready_right := hu, params := hparams, abs := habs, stimulus := hstim }
  obtain ⟨v, hrun', heq', hout⟩ := obsEq_runsTo heq hrun
  exact ⟨v, hrun', hout, heq'.abs.symm⟩

end Sys2Proof.Machine
end

section
/-! SUPPORT. The fields of a cycle word: what unpacking a packed word gives back, and each field read off the
word's bits (30_encoding.md R51, R52). -/

namespace Sys2Proof

/-- The five field lemmas as one equation. -/
theorem unpack_eq (p : Params) (cw : Nat) :
    Inputs.unpack p cw =
      { wrEn := cw / 256 % 2 == 1
        wrData := BitVec.ofNat 8 (cw % 256)
        cmd := Cmd.ofBits (cw / 512 % 4)
        th := cw / 4096 % 2 ^ p.thW
        rst := cw / 2048 % 2 == 1 } := by
  rw [← unpack_wrEn p, ← unpack_wrData p, ← unpack_cmd p, ← unpack_th p, ← unpack_rst p]

/-- A packed word holds each field in bits of its own: the fields below are too small to reach them. -/
theorem unpack_pack {p : Params} {x : Inputs} (hth : x.th < 2 ^ p.thW) : Inputs.unpack p x.pack = x := by
  have hcmd := toBits_lt x.cmd
  have hdata := x.wrData.isLt
  have hrst := x.rst.toNat_le
  have hen := x.wrEn.toNat_le
  have hpack := pack_eq x
  have wrData_bits : x.pack % 256 = x.wrData.toNat := by omega
  have wrEn_bit : x.pack / 256 % 2 = x.wrEn.toNat := by omega
  have cmd_bits : x.pack / 512 % 4 = x.cmd.toBits := by omega
  have rst_bit : x.pack / 2048 % 2 = x.rst.toNat := by omega
  have th_bits : x.pack / 4096 = x.th := by omega
  rw [unpack_eq, wrData_bits, wrEn_bit, cmd_bits, rst_bit, th_bits, Nat.mod_eq_of_lt hth, ofBits_toBits,
    Bool.toNat_beq_one, Bool.toNat_beq_one, BitVec.ofNat_toNat, BitVec.setWidth_eq]

/-- The threshold field always fits its port. -/
theorem unpack_th_lt (p : Params) (cw : Nat) : (Inputs.unpack p cw).th < 2 ^ p.thW := by
  rw [unpack_th]
  exact Nat.mod_lt _ (Nat.two_pow_pos _)

/-- The fields of a cycle word in the terms of R53: single bits, the low byte, and everything from bit 12 up. -/
theorem unpack_eq_bits {p : Params} {cw : Nat} (h : cw < 2 ^ p.cwW) :
    Inputs.unpack p cw =
      { wrEn := cw.testBit 8
        wrData := BitVec.ofNat 8 cw
        cmd := Cmd.ofBits (2 * (cw.testBit 10).toNat + (cw.testBit 9).toNat)
        th := cw / 2 ^ 12
        rst := cw.testBit 11 } := by
  have hth : cw / 4096 < 2 ^ p.thW := Nat.div_lt_of_lt_mul (two_pow_cwW p ▸ h)
  have hcmd : cw / 512 % 4 = 2 * (cw / 2 ^ 10 % 2) + cw / 2 ^ 9 % 2 := by omega
  have hdata : BitVec.ofNat 8 (cw % 256) = BitVec.ofNat 8 cw := BitVec.eq_of_toNat_eq (by simp)
  rw [unpack_eq, hdata, hcmd, Nat.mod_eq_of_lt hth, Nat.toNat_testBit, Nat.toNat_testBit,
    Nat.testBit_eq_decide_div_mod_eq, Nat.testBit_eq_decide_div_mod_eq]
  rfl

/-- Masking with `n` ones from bit `lo` on keeps the slice of those bits, in its place. -/
theorem and_mask (v lo n : Nat) : v &&& 2 ^ lo * (2 ^ n - 1) = 2 ^ lo * (v / 2 ^ lo % 2 ^ n) := by
  refine Nat.eq_of_testBit_eq fun i => ?_
  simp only [Nat.testBit_and, Nat.testBit_two_pow_mul, Nat.testBit_two_pow_sub_one, Nat.testBit_mod_two_pow,
    Nat.testBit_div_two_pow]
  rcases Nat.lt_or_ge i lo with hlt | hge
  · simp [Nat.not_le.mpr hlt]
  · simp [hge, Nat.sub_add_cancel hge, Bool.and_comm]

end Sys2Proof
end

section
/-! PROOF. Decoding an encoded operation gives it back: O1, and with it the example words: O3
(30_encoding.md R53, R59). -/

namespace Sys2Proof

theorem wellFormed_drain {p : Params} {th : Nat} : (Instr.drain th).wellFormed p = true ↔ th < 2 ^ p.thW := by
  simp [Instr.wellFormed, Instr.operandsFit, Instr.hasEncoding]

theorem wellFormed_writeDrain {p : Params} {wd : Byte} {th : Nat} :
    (Instr.writeDrain wd th).wellFormed p = true ↔ th < 2 ^ p.thW := by
  simp [Instr.wellFormed, Instr.operandsFit, Instr.hasEncoding]

/-- The encoder presents inputs that select the operation, with a threshold that fits (30_encoding.md R59). -/
theorem inputs_of_wellFormed {p : Params} {i : Instr} (h : i.wellFormed p = true) :
    ∃ x, i.inputs = some x ∧ x.instr = i ∧ x.th < 2 ^ p.thW := by
  have hzero : 0 < 2 ^ p.thW := Nat.two_pow_pos _
  cases i with
  | reset => exact ⟨_, rfl, rfl, hzero⟩
  | nop => exact ⟨_, rfl, rfl, hzero⟩
  | write wd => exact ⟨_, rfl, rfl, hzero⟩
  | read => exact ⟨_, rfl, rfl, hzero⟩
  | writeRead wd => exact ⟨_, rfl, rfl, hzero⟩
  | drain th => exact ⟨_, rfl, rfl, wellFormed_drain.mp h⟩
  | writeDrain wd th => exact ⟨_, rfl, rfl, wellFormed_writeDrain.mp h⟩
  | rsv => exact ⟨_, rfl, rfl, hzero⟩
  | writeRsv wd => exact ⟨_, rfl, rfl, hzero⟩
  | occupancy => simp [Instr.wellFormed, Instr.hasEncoding] at h

/-- Settles O1: packing loses nothing of inputs that fit, and the encoder's inputs select the operation. -/
theorem decodeUndoesEncode : Obligations.DecodeUndoesEncode := by
  unfold Obligations.DecodeUndoesEncode
  intro p i hwf
  obtain ⟨x, hinputs, hinstr, hth⟩ := inputs_of_wellFormed hwf
  have hword : x.pack < 2 ^ p.cwW := pack_lt p x hth
  refine ⟨x.pack, by rw [encode, hinputs]; rfl, hword, ?_⟩
  rw [decode_of_lt p hword, unpack_pack hth, hinstr]

/-- The same, from the word. -/
theorem decode_of_encode {p : Params} {i : Instr} {w : Nat} (hwf : i.wellFormed p = true) (h : encode i = some w) :
    decode p w = .ok i := by
  obtain ⟨w', hencode, -, hdecode⟩ := decodeUndoesEncode p i hwf
  obtain rfl : w' = w := Option.some.inj (hencode.symm.trans h)
  exact hdecode

/-- Settles O3: the nine words are the encoder's, and for `C = 4` the threshold 3 fits. -/
theorem exampleWordsDecode : Obligations.ExampleWordsDecode := by
  unfold Obligations.ExampleWordsDecode
  intro p hC
  have hth : 3 < 2 ^ p.thW := by have := capacity_lt_thW p; omega
  have drain_fits : (Instr.drain 3).wellFormed p = true := wellFormed_drain.mpr hth
  have writeDrain_fits : (Instr.writeDrain 0x07 0).wellFormed p = true := wellFormed_writeDrain.mpr (Nat.two_pow_pos _)
  exact ⟨decode_of_encode rfl rfl, decode_of_encode rfl rfl, decode_of_encode rfl rfl, decode_of_encode rfl rfl,
    decode_of_encode drain_fits rfl, decode_of_encode rfl rfl, decode_of_encode writeDrain_fits rfl,
    decode_of_encode rfl rfl, decode_of_encode rfl rfl⟩

end Sys2Proof
end

section
/-! SUPPORT and PROOF. The decoder is total, reads the bits of R53 and agrees with the opcode map of R54: O2. -/

namespace Sys2Proof

/-- What any inputs with a threshold in range select is well formed. -/
theorem wellFormed_instr {p : Params} {x : Inputs} (hth : x.th < 2 ^ p.thW) : x.instr.wellFormed p = true := by
  obtain ⟨wrEn, wrData, cmd, th, rst⟩ := x
  cases rst with
  | true => rfl
  | false =>
    cases cmd with
    | none => cases wrEn <;> rfl
    | read => cases wrEn <;> rfl
    | drain =>
      cases wrEn with
      | false => exact wellFormed_drain.mpr hth
      | true => exact wellFormed_writeDrain.mpr hth
    | reserved => cases wrEn <;> rfl

/-- The row of the opcode map that inputs with these fields belong to: RST alone, or CMD and W together. -/
def Inputs.row (x : Inputs) : OpcodeRow :=
  if x.rst then ⟨"RESET", 0x800, 0x800⟩
  else ⟨x.instr.mnemonic, 0xF00, 512 * x.cmd.toBits + 256 * x.wrEn.toNat⟩

theorem row_mem (x : Inputs) : x.row ∈ opcodeMap := by
  obtain ⟨wrEn, wrData, cmd, th, rst⟩ := x
  cases rst with
  | true => exact List.mem_cons_self
  | false => cases cmd <;> cases wrEn <;> simp [Inputs.row, Inputs.instr, Instr.mnemonic, Cmd.toBits, opcodeMap]

theorem row_mnemonic (x : Inputs) : x.row.mnemonic = x.instr.mnemonic := by
  unfold Inputs.row
  split
  · next h => simp [Inputs.instr, h, Instr.mnemonic]
  · rfl

theorem toBits_ofBits {n : Nat} (h : n < 4) : (Cmd.ofBits n).toBits = n := by
  decide +revert

/-- A cycle word matches the row of its fields: the mask keeps the bits of RST, or of RST, CMD and W. -/
theorem row_unpack_fits (p : Params) (cw : Nat) : (Inputs.unpack p cw).row.fits cw = true := by
  have hreset : cw &&& 0x800 = 2048 * (cw / 2048 % 2) := and_mask cw 11 1
  have hopcode : cw &&& 0xF00 = 256 * (cw / 256 % 16) := and_mask cw 8 4
  have hcmd : (Cmd.ofBits (cw / 512 % 4)).toBits = cw / 512 % 4 := toBits_ofBits (Nat.mod_lt _ (by decide))
  have hen : (cw / 256 % 2 == 1).toNat = cw / 256 % 2 := by
    rcases Nat.mod_two_eq_zero_or_one (cw / 256) with h | h <;> simp [h]
  unfold Inputs.row OpcodeRow.fits
  rw [unpack_rst, unpack_cmd, unpack_wrEn, hcmd, hen]
  split
  · next h =>
    have : cw / 2048 % 2 = 1 := by simpa using h
    simp only [hreset, beq_iff_eq]
    omega
  · next h =>
    have : cw / 2048 % 2 ≠ 1 := by simpa using h
    simp only [hopcode, beq_iff_eq]
    omega

/-- No two rows of the map meet: a word matching both would make their patterns agree on the bits both masks keep. -/
theorem eq_of_fits {q r : OpcodeRow} (hq : q ∈ opcodeMap) (hr : r ∈ opcodeMap) {cw : Nat} (hqf : q.fits cw = true)
    (hrf : r.fits cw = true) : q = r := by
  have disjoint : ∀ q ∈ opcodeMap, ∀ r ∈ opcodeMap, q.pattern &&& r.mask = r.pattern &&& q.mask → q = r := by
    decide
  have hqp : cw &&& q.mask = q.pattern := by simpa [OpcodeRow.fits] using hqf
  have hrp : cw &&& r.mask = r.pattern := by simpa [OpcodeRow.fits] using hrf
  refine disjoint q hq r hr ?_
  rw [← hqp, ← hrp, Nat.and_right_comm]

/-- Settles O2: the row of the word's fields is the one that matches, and the fields are the bits R53 names. -/
theorem decoderReadsEveryCycleWord : Obligations.DecoderReadsEveryCycleWord := by
  unfold Obligations.DecoderReadsEveryCycleWord
  intro p cw hcw
  have hdecode := decode_of_lt p hcw
  have hfits := row_unpack_fits p cw
  refine ⟨⟨_, hdecode, wellFormed_instr (unpack_th_lt p cw), _, row_mem _, row_mnemonic _, fun q hq => ?_⟩, ?bits⟩
  · exact ⟨fun hqf => eq_of_fits hq (row_mem _) hqf hfits, fun heq => heq ▸ hfits⟩
  case bits =>
    rw [hdecode, unpack_eq_bits hcw]
    cases cw.testBit 11 with
    | true => rfl
    | false => cases cw.testBit 10 <;> cases cw.testBit 9 <;> cases cw.testBit 8 <;> rfl

end Sys2Proof
end

section
/-! SUPPORT and PROOF. Fields that a cycle ignores: O4 (30_encoding.md R56). -/

namespace Sys2Proof

/-- CMD is DRAIN where bit 10 is set and bit 9 is not (30_encoding.md R51). -/
theorem ofBits_eq_drain {hi lo : Bool} : Cmd.ofBits (2 * hi.toNat + lo.toNat) = .drain ↔ hi = true ∧ lo = false := by
  decide +revert

/-- Outside reset the operation is a function of CMD and W, of WD where W is set, and of TH where CMD is DRAIN. -/
theorem instr_congr {x y : Inputs} (hx : x.rst = false) (hy : y.rst = false) (hcmd : x.cmd = y.cmd)
    (hen : x.wrEn = y.wrEn) (hdata : x.wrEn = true → x.wrData = y.wrData) (hth : x.cmd = .drain → x.th = y.th) :
    x.instr = y.instr := by
  obtain ⟨wrEn, wrData, cmd, th, rst⟩ := x
  obtain ⟨wrEn', wrData', cmd', th', rst'⟩ := y
  subst hx hy hcmd hen
  cases wrEn with
  | false =>
    cases cmd with
    | none => rfl
    | read => rfl
    | drain => exact congrArg Instr.drain (hth rfl)
    | reserved => rfl
  | true =>
    obtain rfl : wrData = wrData' := hdata rfl
    cases cmd with
    | none => rfl
    | read => rfl
    | drain => exact congrArg (Instr.writeDrain wrData) (hth rfl)
    | reserved => rfl

theorem instr_of_rst {x : Inputs} (h : x.rst = true) : x.instr = .reset := by simp [Inputs.instr, h]

end Sys2Proof

namespace Sys2Proof.Machine

theorem step_under_cons {s : State} {cw : Nat} {rest : List Nat} {i : Instr} (h : decode s.params cw = .ok i) :
    step (s.under (cw :: rest)) = exec i (s.under rest) := by
  have hfetch : (s.under (cw :: rest)).fetch = .ok (i, s.under rest) := fetch_ok.mpr ⟨cw, rest, rfl, h, rfl⟩
  rw [step, hfetch]

/-- Settles O4: two words that differ only in ignored fields decode to one operation. -/
theorem ignoredFieldsHaveNoEffect : Obligations.IgnoredFieldsHaveNoEffect := by
  unfold Obligations.IgnoredFieldsHaveNoEffect
  intro s v w rest hv hw hagree
  have same_instr : (Inputs.unpack s.params v).instr = (Inputs.unpack s.params w).instr := by
    rw [unpack_eq_bits hv, unpack_eq_bits hw]
    rcases hagree with ⟨hvr, hwr⟩ | ⟨hvr, hwr, hen, h9, h10, hdata, hth⟩
    · rw [instr_of_rst hvr, instr_of_rst hwr]
    · refine instr_congr hvr hwr (by simp only [h9, h10]) hen (fun hset => ?_)
        (fun hdrain => hth (ofBits_eq_drain.mp hdrain))
      exact BitVec.eq_of_toNat_eq (by simpa using hdata hset)
  rw [step_under_cons (decode_of_lt _ hv), step_under_cons (decode_of_lt _ hw), same_instr]

end Sys2Proof.Machine
end

section
/-! SUPPORT and PROOF. The pseudo-instructions: O6 (30_encoding.md R60, 44_drain.md R103). -/

namespace Sys2Proof.Machine

/-- From a ready state DRAIN completes, and `drain_ok` is the threshold test on the pre-edge state. -/
theorem exec_drain_drainOk {s : State} (hs : s.Ready) (th : Nat) :
    ∃ t o, exec (.drain th) s = .next t ∧ t.out = some o ∧ o.consumer.drainOk = s.fires th := by
  obtain ⟨-, -, -, -, -, -, hw⟩ := ready_iff.mp hs
  obtain ⟨t, hexec, -, hout, -⟩ := exec_refines hs (.drain th)
  refine ⟨t, _, hexec, hout, ?_⟩
  change (ListState.consume s.params s.abs (.drain th)).1.drainOk = decide (th ≤ s.occ)
  have hlen : s.abs.live.length = s.occ := live_length hw
  by_cases hfires : th ≤ s.occ <;> simp [ListState.consume, hlen, hfires]

theorem fires_capacity (s : State) : s.fires s.params.capacity = false := by
  simpa [State.fires] using occ_lt s

theorem fires_capacity_sub_one {s : State} (hs : s.Ready) : s.fires (s.params.capacity - 1) = s.isFull := by
  obtain ⟨-, -, -, hh, ht, -, -⟩ := ready_iff.mp hs
  have hlt := occ_lt s
  refine Bool.eq_iff_iff.mpr ?_
  rw [isFull_iff_occ hh ht, State.fires, decide_eq_true_iff]
  omega

theorem fires_zero (s : State) : s.fires 0 = true := by simp [State.fires]

/-- Settles O6: the expansions by their definition, and the threshold test at `C`, `C - 1` and `0`. -/
theorem pseudoInstructionsExpand : Obligations.PseudoInstructionsExpand := by
  unfold Obligations.PseudoInstructionsExpand
  refine ⟨fun p bs n => ?expansions, fun s hs => ?firing⟩
  case expansions =>
    exact ⟨rfl, rfl, rfl, List.length_map _, fun k => List.getElem?_map, List.length_replicate,
      fun i => List.eq_of_mem_replicate⟩
  case firing =>
    simp only [Pseudo.expand, List.forall_mem_singleton]
    refine ⟨?_, ?_, ?_⟩
    · simpa only [fires_capacity] using exec_drain_drainOk hs s.params.capacity
    · simpa only [fires_capacity_sub_one hs] using exec_drain_drainOk hs (s.params.capacity - 1)
    · simpa only [fires_zero] using exec_drain_drainOk hs 0

end Sys2Proof.Machine
end

section
/-! SUPPORT and PROOF. The widths of the outputs: O35 (30_encoding.md R51, 00_scope.md R8). -/

namespace Sys2Proof.Machine

theorem lanesValue_lt (bs : List Byte) : lanesValue bs < 2 ^ (8 * bs.length) := by
  induction bs with
  | nil => simp [lanesValue]
  | cons b bs ih =>
    have hb := b.isLt
    rw [lanesValue, List.length_cons, Nat.mul_succ, Nat.add_comm, Nat.pow_add]
    omega

theorem drainLanes_length {p : Params} {bs : List Byte} (h : bs.length ≤ p.lanes) :
    (drainLanes p bs).length = p.lanes := by
  simp [drainLanes, h]

/-- The consumer outputs that have a width fit their ports. -/
structure ConsumerOut.Fits (p : Params) (co : ConsumerOut) : Prop where
  drainLen : co.drainLen < 2 ^ p.occW
  lanes : co.drainData.length = p.lanes

theorem zero_fitsPorts (p : Params) : (ConsumerOut.zero p).Fits p where
  drainLen := Nat.two_pow_pos _
  lanes := drainLanes_length (Nat.zero_le _)

/-- On a list of at most `C - 1` bytes every consumer operation gives outputs that fit; only a DRAIN that fires drives
`drain_len` and `drain_data`. -/
theorem consume_fitsPorts {p : Params} {a : ListState} (ha : a.live.length ≤ p.capacity - 1) (c : ConsumerOp) :
    (a.consume p c).1.Fits p := by
  have hzero := zero_fitsPorts p
  cases c with
  | none => exact hzero
  | reserved => exact hzero
  | read =>
    obtain ⟨live, d⟩ := a
    cases live with
    | nil => exact hzero
    | cons b rest => exact ⟨hzero.drainLen, hzero.lanes⟩
  | drain th =>
    have hlanes : a.live.length ≤ p.lanes := ha.trans (Nat.sub_le _ _)
    simp only [ListState.consume]
    split
    · exact ⟨ha.trans_lt (capacity_sub_one_lt_occW p), drainLanes_length hlanes⟩
    · exact hzero

/-- One cycle of the list model shows the status of the list before it, and consumer outputs that fit. -/
theorem step_fitsPorts {p : Params} {a : ListState} (ha : a.live.length ≤ p.capacity - 1) (i : Instr) :
    (ListState.step p a i).1.status = a.status p ∧ (ListState.step p a i).1.consumer.Fits p := by
  unfold ListState.step
  split
  · exact ⟨rfl, zero_fitsPorts p⟩
  · exact ⟨rfl, consume_fitsPorts ha (consumerOf i)⟩

/-- Settles O35: a ready state answers as the list model, whose list holds at most `C - 1` bytes. -/
theorem outputsFitTheirPorts : Obligations.OutputsFitTheirPorts := by
  unfold Obligations.OutputsFitTheirPorts
  intro i s hs
  obtain ⟨-, -, -, -, -, hcount, -⟩ := ready_iff.mp hs
  have hlive : s.abs.live.length ≤ s.params.capacity - 1 := live_length_le hs
  obtain ⟨t, hexec, -, hout, -⟩ := exec_refines hs i
  obtain ⟨hstatus, hfits⟩ := step_fitsPorts hlive i
  have hvalue := lanesValue_lt (ListState.step s.params s.abs i).1.consumer.drainData
  rw [hfits.lanes] at hvalue
  refine ⟨t, _, hexec, hout, ?_, ?_, hfits.drainLen, hfits.lanes, hvalue⟩
  · rw [hstatus]; exact hlive.trans_lt (capacity_sub_one_lt_occW s.params)
  · rw [hstatus]; exact hcount

end Sys2Proof.Machine
end

section
/-! SUPPORT and PROOF. The lone WRITE: O17, O26 and O27 (41_write.md R71, R73, R74, R76). -/

namespace Sys2Proof.Machine

/-- A WRITE completes beside every consumer command that performs nothing, with `wr_drop` the full flag. -/
theorem cycle_write {s : State} {c : ConsumerOp} (hidle : s.consume c = .ok (ConsumerOut.zero s.params, s))
    (hrun : s.phase = .running) (hh : s.head < s.params.capacity) (b : Byte) :
    s.cycle c (some b) = .next ((s.pushed b).driving
      { status := s.status, consumer := ConsumerOut.zero s.params, wrDrop := s.isFull }) :=
  cycle_next.mpr ⟨hrun, _, _, _, _, hidle, writeOp_ok.mpr ⟨hh, rfl, rfl⟩, rfl⟩

theorem exec_write {s : State} (hrun : s.phase = .running) (hh : s.head < s.params.capacity) (b : Byte) :
    exec (.write b) s = .next ((s.pushed b).driving
      { status := s.status, consumer := ConsumerOut.zero s.params, wrDrop := s.isFull }) :=
  cycle_write (consume_none s) hrun hh b

theorem exec_writeRsv {s : State} (hrun : s.phase = .running) (hh : s.head < s.params.capacity) (b : Byte) :
    exec (.writeRsv b) s = .next ((s.pushed b).driving
      { status := s.status, consumer := ConsumerOut.zero s.params, wrDrop := s.isFull }) :=
  cycle_write (consume_reserved s) hrun hh b

/-- The drop condition as R71 writes it: the next `head` would be `tail`. -/
theorem isFull_eq_decide (s : State) : s.isFull = decide ((s.head + 1) % s.params.capacity = s.tail) :=
  Bool.eq_iff_iff.mpr (isFull_iff.trans decide_eq_true_iff.symm)

/-- `pushed` with R71's own condition in place of the full flag. -/
theorem pushed_eq (m : State) (b : Byte) : m.pushed b = { m with
    stor := m.stor.store m.head b
    head := (m.head + 1) % m.params.capacity
    tail := if (m.head + 1) % m.params.capacity = m.tail then (m.tail + 1) % m.params.capacity else m.tail
    dropCount := if (m.head + 1) % m.params.capacity = m.tail
      then (m.dropCount + 1) % 2 ^ m.params.dropW else m.dropCount } := by
  simp only [State.pushed, isFull_eq_decide, decide_eq_true_eq, inc]

theorem zero_eq (p : Params) : ConsumerOut.zero p = ⟨false, 0x00, false, 0, List.replicate p.capacity 0x00⟩ :=
  congrArg (ConsumerOut.mk false 0 false 0) (zero_drainData p)

/-- Settles O17: the state R71 describes is `pushed`, which both operations leave; a store changes one slot. -/
theorem writeStoresAtHead : Obligations.WriteStoresAtHead := by
  unfold Obligations.WriteStoresAtHead
  intro m wd hh
  simp only [← pushed_eq, ← isFull_eq_decide, ← zero_eq]
  refine ⟨writeOp_ok.mpr ⟨hh, rfl, rfl⟩, fun hrun => ⟨?_, ?_⟩, find_store_self _ _ _, fun a hne => ?_⟩
  · rw [exec_write hrun hh, pushed_eq]; rfl
  · rw [exec_writeRsv hrun hh, pushed_eq]; rfl
  · exact find_store_other _ _ hne.symm

/-- Settles O26: with room the slot at `head` joins the live slots; on a full buffer it takes the place of the slot at `tail`,
which is another slot. -/
theorem writeLosesOnlyTheOldest : Obligations.WriteLosesOnlyTheOldest := by
  unfold Obligations.WriteLosesOnlyTheOldest
  intro s wd hs hC
  obtain ⟨-, -, hrun, hh, ht, -, hw⟩ := ready_iff.mp hs
  refine ⟨_, exec_write hrun hh wd, fun hroom => ?room, fun hfull => ?full⟩
  case room => rw [driving_live, live_pushed_of_room hh ht wd hroom]
  case full =>
    have hne := head_ne_tail_of_full hh ht hC hfull
    obtain ⟨oldest, -, hlive⟩ := live_eq_cons_popped hh ht hw hne
    constructor
    · rw [driving_live, live_pushed_of_full hh ht wd hC hfull, hlive, List.tail_cons]
    · rw [driving_stor, pushed_stor, find_store_other _ _ hne]

/-- With one slot a ready state is empty and full at once, with both indices 0 (41_write.md R76). -/
theorem ready_of_capacity_one {s : State} (hs : s.Ready) (hC : s.params.capacity = 1) :
    s.head = 0 ∧ s.tail = 0 ∧ s.occ = 0 ∧ s.isFull = true := by
  obtain ⟨-, -, -, hh, ht, -, -⟩ := ready_iff.mp hs
  have hocc := occ_lt s
  have hfull := isFull_iff_occ hh ht
  exact ⟨by omega, by omega, by omega, hfull.mpr (by omega)⟩

/-- Settles O27: the state before the WRITE and the one after it are ready states of one slot, and the first is full. -/
theorem capacityOneLosesEveryByte : Obligations.CapacityOneLosesEveryByte := by
  unfold Obligations.CapacityOneLosesEveryByte
  intro s wd hs hC
  obtain ⟨-, -, hrun, hh, -, -, -⟩ := ready_iff.mp hs
  obtain ⟨hhead, htail, hocc, hfull⟩ := ready_of_capacity_one hs hC
  obtain ⟨hhead', htail', hocc', -⟩ := ready_of_capacity_one (ready_pushed hs wd) hC
  refine ⟨hhead, htail, hocc, _, _, exec_write hrun hh wd, driving_out _ _, hhead', htail', ?dropCount, hfull,
    ?slot, hocc', live_of_occ_zero hocc'⟩
  case dropCount => rw [driving_dropCount, pushed_dropCount, if_pos hfull]
  case slot => rw [driving_stor, pushed_stor, hhead, find_store_self]

end Sys2Proof.Machine
end

section
/-! SUPPORT and PROOF. The READ: O18 and O46 (42_read.md R81, R83). -/

namespace Sys2Proof.Machine

/-- A READ completes wherever its consumer half answers: without a producer operation the intermediate state is the state
after the edge. -/
theorem exec_read {s m : State} {co : ConsumerOut} (hrun : s.phase = .running) (hread : s.readOp = .ok (co, m)) :
    exec .read s = .next (m.driving { status := s.status, consumer := co, wrDrop := false }) :=
  (exec_eq_cycle (by decide) s).trans (cycle_next.mpr ⟨hrun, _, _, _, _, hread, produce_none m, rfl⟩)

theorem exec_read_of_empty {s : State} (hrun : s.phase = .running) (hempty : s.head = s.tail) :
    exec .read s = .next (s.driving
      { status := s.status, consumer := ConsumerOut.zero s.params, wrDrop := false }) :=
  exec_read hrun (readOp_ok.mpr (.inl ⟨isEmpty_iff.mpr hempty, rfl, rfl⟩))

theorem exec_read_of_ne {s : State} {b : Byte} (hrun : s.phase = .running) (hne : s.head ≠ s.tail)
    (ht : s.tail < s.params.capacity) (hb : s.stor.find s.tail = some b) :
    exec .read s = .next (s.popped.driving
      { status := s.status, consumer := { ConsumerOut.zero s.params with rdValid := true, rdData := b }
        wrDrop := false }) :=
  exec_read hrun (readOp_ok.mpr (.inr ⟨Bool.eq_false_iff.mpr (mt isEmpty_iff.mp hne), b, ht, hb, rfl, rfl⟩))

/-- Settles O18: the two cases of R81, with the unnamed consumer outputs spelled out by `zero_eq`. -/
theorem readTakesTheByteAtTail : Obligations.ReadTakesTheByteAtTail := by
  unfold Obligations.ReadTakesTheByteAtTail
  refine fun s hrun => ⟨fun hempty => ?empty, fun hne ht b hb => ?byte⟩
  case empty => rw [exec_read_of_empty hrun hempty, zero_eq]; rfl
  case byte => rw [exec_read_of_ne hrun hne ht hb, zero_eq]; rfl

/-- `0x200` is the cycle word of READ in every instance (42_read.md R80, R86). -/
theorem decode_read (p : Params) : decode p 0x200 = .ok .read := decode_of_encode rfl rfl

theorem step_read_of_empty {s : State} (hrun : s.phase = .running) (hempty : s.head = s.tail) (rest : List Nat) :
    step (s.under (0x200 :: rest)) = .next ((s.under rest).driving
      { status := s.status, consumer := ConsumerOut.zero s.params, wrDrop := false }) :=
  (step_under_cons (decode_read s.params)).trans (exec_read_of_empty (s := s.under rest) hrun hempty)

/-- READs on an empty buffer leave the state they started from, its cycle words used up and the outputs of the last of them
recorded. -/
theorem runsTo_reads_of_empty {s : State} (hrun : s.phase = .running) (hempty : s.head = s.tail) (k : Nat) :
    RunsTo (k + 1) (s.under (List.replicate (k + 1) 0x200)) ((s.under []).driving
      { status := s.status, consumer := ConsumerOut.zero s.params, wrDrop := false }) := by
  induction k generalizing s with
  | zero => exact runsTo_succ.mpr ⟨_, step_read_of_empty hrun hempty [], runsTo_zero.mpr rfl⟩
  | succ k ih => exact runsTo_succ.mpr ⟨_, step_read_of_empty hrun hempty _, ih (s := s.driving _) hrun hempty⟩

/-- Settles O46, by induction on the number of READs: each leaves an empty buffer for the next. -/
theorem emptyReadsChangeNothing : Obligations.EmptyReadsChangeNothing := by
  unfold Obligations.EmptyReadsChangeNothing
  intro s k hrun hempty
  exact ⟨_, _, runsTo_reads_of_empty hrun hempty k, driving_out _ _, rfl, rfl, rfl, rfl, rfl, rfl⟩

end Sys2Proof.Machine
end

section
/-! SUPPORT and PROOF. The occupancy state machine, its states and which exist: O16 (43_occupancy.md R93). -/

namespace Sys2Proof.Machine

section OfOcc

variable {p : Params} {n : Nat}

theorem ofOcc_eq_empty_iff : OccState.ofOcc p n = .EMPTY ↔ n = 0 := by
  unfold OccState.ofOcc
  split_ifs <;> simp_all

theorem ofOcc_eq_partial_iff : OccState.ofOcc p n = .PARTIAL ↔ n ≠ 0 ∧ n ≠ p.capacity - 1 := by
  unfold OccState.ofOcc
  split_ifs <;> simp_all

theorem ofOcc_eq_full_iff : OccState.ofOcc p n = .FULL ↔ n ≠ 0 ∧ n = p.capacity - 1 := by
  unfold OccState.ofOcc
  split_ifs <;> simp_all

end OfOcc

/-- Every occupancy below `C` is reached from a reset block by that many WRITEs, each with room. -/
theorem exists_ready_occ (p : Params) {n : Nat} (hn : n < p.capacity) :
    ∃ s : State, s.params = p ∧ s.Ready ∧ s.occ = n := by
  induction n with
  | zero => exact ⟨State.resetFor p, rfl, ready_resetFor p, occ_of_head_eq_tail rfl⟩
  | succ n ih =>
    obtain ⟨s, rfl, hs, hocc⟩ := ih (by omega)
    obtain ⟨-, -, -, hh, ht, -, -⟩ := ready_iff.mp hs
    have hroom : s.isFull = false := by
      rw [Bool.eq_false_iff, ne_eq, isFull_iff_occ hh ht]
      omega
    exact ⟨s.pushed 0, rfl, ready_pushed hs 0, by rw [occ_pushed_of_room s 0 hh ht hroom, hocc]⟩

/-- Settles O16: R93's conditions on the occupancy, and the occupancies 0, 1 and `C - 1`, each with a ready state. -/
theorem occupancyStateMachine : Obligations.OccupancyStateMachine := by
  unfold Obligations.OccupancyStateMachine
  refine ⟨fun s hrun hh ht => ?conditions, fun p x hC => ?existence⟩
  case conditions =>
    have hlt := occ_lt s
    have hempty := isEmpty_iff_occ hh ht
    have hfull := isFull_iff_occ hh ht
    have hstatus := status_running s hrun
    have hE : s.occState = .EMPTY ↔ s.occ = 0 := ofOcc_eq_empty_iff
    have hP : s.occState = .PARTIAL ↔ s.occ ≠ 0 ∧ s.occ ≠ s.params.capacity - 1 := ofOcc_eq_partial_iff
    have hF : s.occState = .FULL ↔ s.occ ≠ 0 ∧ s.occ = s.params.capacity - 1 := ofOcc_eq_full_iff
    rw [show s.status.empty = s.isEmpty by rw [hstatus]; rfl, show s.status.full = s.isFull by rw [hstatus]; rfl]
    refine ⟨hE, hP.trans (by omega), hF.trans (by omega), fun h => ?atEmpty, fun h => ?atPartial, fun h => ?atFull,
      fun hC => hE.mpr (by omega), fun hC h => ?two⟩
    case atEmpty =>
      have hocc := hE.mp h
      exact ⟨hempty.mpr hocc, Bool.eq_iff_iff.mpr (hfull.trans (by rw [decide_eq_true_iff]; omega))⟩
    case atPartial =>
      obtain ⟨hne, hlast⟩ := hP.mp h
      exact ⟨Bool.eq_false_iff.mpr (mt hempty.mp hne), Bool.eq_false_iff.mpr (mt hfull.mp hlast)⟩
    case atFull =>
      obtain ⟨hne, hlast⟩ := hF.mp h
      exact ⟨Bool.eq_false_iff.mpr (mt hempty.mp hne), hfull.mpr hlast⟩
    case two =>
      have := hP.mp h
      omega
  case existence =>
    have reached (n : Nat) (hn : n < p.capacity) (hx : OccState.ofOcc p n = x) :
        ∃ s : State, s.params = p ∧ s.Ready ∧ s.occState = x := by
      obtain ⟨s, rfl, hs, rfl⟩ := exists_ready_occ p hn
      exact ⟨s, rfl, hs, hx⟩
    cases x with
    | EMPTY => exact reached 0 (by omega) (ofOcc_eq_empty_iff.mpr rfl)
    | PARTIAL => exact reached 1 (by omega) (ofOcc_eq_partial_iff.mpr (by omega))
    | FULL => exact reached (p.capacity - 1) (by omega) (ofOcc_eq_full_iff.mpr (by omega))

end Sys2Proof.Machine
end

section
/-! SUPPORT and PROOF. The status outputs of every cycle: O21 (43_occupancy.md R90, R91). -/

namespace Sys2Proof.Machine

theorem exec_status {i : Instr} {s t : State} (h : exec i s = .next t) :
    ∃ o, t.out = some o ∧ o.status = s.status := by
  rcases exec_next h with ⟨-, rfl⟩ | ⟨-, o, effect⟩
  · exact ⟨_, resetEdge_out s, rfl⟩
  · exact ⟨o, effect.out, effect.status⟩

/-- The occupancy as an integer: the remainder of R24 is not negative, so that its `toNat` loses nothing. -/
theorem occ_eq_emod (s : State) :
    (s.occ : Int) = (s.head - s.tail + s.params.capacity) % (s.params.capacity : Int) := by
  have hC : (s.params.capacity : Int) ≠ 0 := by exact_mod_cast s.params.capacity_pos.ne'
  exact Int.toNat_of_nonneg (Int.emod_nonneg _ hC)

/-- Settles O21: the recorded status is that of the state before the edge, which in a running block is `statusRunning`. -/
theorem statusShowsPreEdgeState : Obligations.StatusShowsPreEdgeState := by
  unfold Obligations.StatusShowsPreEdgeState
  intro i s t hrun h
  obtain ⟨o, hout, hstatus⟩ := exec_status h
  rw [status_running s hrun] at hstatus
  refine ⟨o, hout, ?_⟩
  rw [hstatus]
  exact ⟨occ_eq_emod s, rfl, isFull_eq_decide s, rfl⟩

end Sys2Proof.Machine
end

section
/-! SUPPORT and PROOF. How every operation moves the occupancy: O36 (43_occupancy.md R94). The two halves of a cycle stand
apart, as in the list model: what the consumer operation leaves of an occupancy, and what the producer operation makes of
that. -/

namespace Sys2Proof.Machine

/-- The occupancy of the intermediate state, from the occupancy `n` before the edge. -/
def ConsumerOp.occLeft (n : Nat) : ConsumerOp → Nat
  | .none => n
  | .read => n - 1
  | .drain th => if th ≤ n then 0 else n
  | .reserved => n

/-- The occupancy after the edge, from the occupancy `n` of the intermediate state. -/
def occStored (p : Params) (n : Nat) : Option Byte → Nat
  | none => n
  | some _ => min (n + 1) (p.capacity - 1)

/-- `wr_drop`, from the occupancy `n` of the intermediate state. -/
def dropsAt (p : Params) (n : Nat) : Option Byte → Bool
  | none => false
  | some _ => decide (n = p.capacity - 1)

theorem lastK_length (k : Nat) (xs : List Byte) : (lastK k xs).length = min xs.length k := by
  rw [lastK, List.length_drop]
  omega

theorem listConsume_length (p : Params) (a : ListState) (c : ConsumerOp) :
    (a.consume p c).2.length = c.occLeft a.live.length := by
  obtain ⟨live, d⟩ := a
  cases c with
  | none => rfl
  | reserved => rfl
  | read => cases live <;> rfl
  | drain th =>
    simp only [ListState.consume, ConsumerOp.occLeft]
    split <;> rfl

theorem listProduce_length (p : Params) (m : List Byte) (d : Nat) (w : Option Byte) :
    (ListState.produce p m d w).2.live.length = occStored p m.length w := by
  cases w with
  | none => rfl
  | some b => rw [ListState.produce, lastK_length, List.length_append, List.length_singleton, occStored]

theorem listProduce_drop (p : Params) (m : List Byte) (d : Nat) (w : Option Byte) :
    (ListState.produce p m d w).1 = dropsAt p m.length w := by
  cases w <;> rfl

/-- Every operation but RESET, from a ready state: the occupancy it leaves and its `wr_drop` depend on the occupancy before
it alone. -/
theorem exec_occ {s : State} (hs : s.Ready) {i : Instr} (hi : i ≠ .reset) :
    ∃ t o, exec i s = .next t ∧ t.out = some o ∧
      t.occ = occStored s.params ((consumerOf i).occLeft s.occ) (producerOf i) ∧
      o.wrDrop = dropsAt s.params ((consumerOf i).occLeft s.occ) (producerOf i) := by
  obtain ⟨-, -, -, -, -, -, hw⟩ := ready_iff.mp hs
  obtain ⟨t, hexec, ht, hout, habs⟩ := exec_refines hs i
  obtain ⟨-, -, -, -, -, -, hw'⟩ := ready_iff.mp ht
  have hlen : s.abs.live.length = s.occ := live_length hw
  have hleft : (s.abs.consume s.params (consumerOf i)).2.length = (consumerOf i).occLeft s.occ := by
    rw [listConsume_length, hlen]
  rw [ListState.step, if_neg hi] at hout habs
  refine ⟨t, _, hexec, hout, ?occ, ?drop⟩
  case occ =>
    calc t.occ = t.abs.live.length := (live_length hw').symm
      _ = _ := by rw [habs, ListState.cycle, listProduce_length, hleft]
  case drop => rw [ListState.cycle, listProduce_drop, hleft]

theorem occLeft_drain_of_le {th n : Nat} (h : th ≤ n) : (ConsumerOp.drain th).occLeft n = 0 := if_pos h

theorem occLeft_drain_of_lt {th n : Nat} (h : n < th) : (ConsumerOp.drain th).occLeft n = n :=
  if_neg (Nat.not_le.mpr h)

/-- Settles O36: each row of R94's table is `exec_occ` for its operation, with the DRAIN threshold decided. -/
theorem occupancyTransitions : Obligations.OccupancyTransitions := by
  unfold Obligations.OccupancyTransitions
  intro s b th hs
  have hC := s.params.capacity_pos
  have hread : max (s.occ - 1) 0 = s.occ - 1 := Nat.max_zero _
  have hdrain := exec_occ hs (i := .drain th) nofun
  have hwriteDrain := exec_occ hs (i := .writeDrain b th) nofun
  simp only [consumerOf] at hdrain hwriteDrain
  rw [hread]
  refine ⟨exec_occ hs (i := .nop) nofun, exec_occ hs (i := .rsv) nofun, exec_occ hs (i := .write b) nofun,
    exec_occ hs (i := .writeRsv b) nofun, exec_occ hs (i := .read) nofun, exec_occ hs (i := .writeRead b) nofun,
    fun hle => ?_, fun hlt => ?_, fun hle => ?_, fun hlt => ?_, ?reset⟩
  · rwa [occLeft_drain_of_le hle] at hdrain
  · rwa [occLeft_drain_of_lt hlt] at hdrain
  · rw [occLeft_drain_of_le hle] at hwriteDrain
    have hone : decide (0 = s.params.capacity - 1) = decide (s.params.capacity = 1) := decide_eq_decide.mpr (by omega)
    simpa only [occStored, dropsAt, producerOf, hone, Nat.zero_add] using hwriteDrain
  · rwa [occLeft_drain_of_lt hlt] at hwriteDrain
  case reset => exact ⟨_, _, exec_reset s, resetEdge_out s, resetEdge_occ s, rfl⟩

end Sys2Proof.Machine
end

section
/-! SUPPORT and PROOF. The transitions of the occupancy state machine: O37 (43_occupancy.md R95), from the occupancies of
R94 by what the WRITE of a cycle meets: none, room, or a full buffer. -/

namespace Sys2Proof.Machine

/-- One entry of R95's table: the operation completes in the occupancy state `x`, with `drop` on `wr_drop`. -/
def State.GoesTo (s : State) (i : Instr) (x : OccState) (drop : Bool) : Prop :=
  ∃ t o, exec i s = .next t ∧ t.out = some o ∧ t.occState = x ∧ o.wrDrop = drop

theorem ofOcc_zero (p : Params) : OccState.ofOcc p 0 = .EMPTY := ofOcc_eq_empty_iff.mpr rfl

theorem ofOcc_one_of_three_le {p : Params} (hC : 3 ≤ p.capacity) : OccState.ofOcc p 1 = .PARTIAL :=
  ofOcc_eq_partial_iff.mpr (by omega)

theorem ofOcc_one_of_capacity_two {p : Params} (hC : p.capacity = 2) : OccState.ofOcc p 1 = .FULL :=
  ofOcc_eq_full_iff.mpr (by omega)

theorem ofOcc_succ {p : Params} {n : Nat} (hn : n + 1 < p.capacity) :
    OccState.ofOcc p (n + 1) = if n < p.capacity - 2 then .PARTIAL else .FULL := by
  split
  · exact ofOcc_eq_partial_iff.mpr (by omega)
  · exact ofOcc_eq_full_iff.mpr (by omega)

theorem ofOcc_pred {p : Params} {n : Nat} (hn : n < p.capacity) :
    OccState.ofOcc p (n - 1) = if 2 ≤ n then .PARTIAL else .EMPTY := by
  split
  · exact ofOcc_eq_partial_iff.mpr (by omega)
  · exact ofOcc_eq_empty_iff.mpr (by omega)

theorem occLeft_of_occ_zero {n : Nat} (hn : n = 0) (c : ConsumerOp) : c.occLeft n = 0 := by
  subst hn
  cases c with
  | none => rfl
  | reserved => rfl
  | read => rfl
  | drain th => exact ite_self 0

theorem resetEdge_goesTo (s : State) : s.GoesTo .reset .EMPTY false :=
  ⟨_, _, exec_reset s, resetEdge_out s, (congrArg _ (resetEdge_occ s)).trans (ofOcc_zero _), rfl⟩

section Ready

variable {s : State} (hs : s.Ready)
include hs

/-- The table of R95 is that of R94 read through R93's states. -/
theorem goesTo_of_occ {i : Instr} (hi : i ≠ .reset) {x : OccState} {drop : Bool}
    (hx : OccState.ofOcc s.params (occStored s.params ((consumerOf i).occLeft s.occ) (producerOf i)) = x)
    (hdrop : dropsAt s.params ((consumerOf i).occLeft s.occ) (producerOf i) = drop) : s.GoesTo i x drop := by
  obtain ⟨t, o, hexec, hout, hocc, hwrDrop⟩ := exec_occ hs hi
  refine ⟨t, o, hexec, hout, ?_, hwrDrop.trans hdrop⟩
  rw [State.occState, exec_params hexec, hocc, hx]

/-- A cycle without a WRITE ends in the state of the occupancy `n` that its consumer operation leaves. -/
theorem goesTo_of_noWrite {i : Instr} (n : Nat) {x : OccState} (hi : i ≠ .reset)
    (hleft : (consumerOf i).occLeft s.occ = n) (hw : producerOf i = none) (hx : OccState.ofOcc s.params n = x) :
    s.GoesTo i x false := by
  refine goesTo_of_occ hs hi ?_ ?_
  · rw [hw, hleft, occStored, hx]
  · rw [hw, dropsAt]

/-- A WRITE with room, after a consumer operation that leaves `n` bytes. -/
theorem goesTo_of_room {i : Instr} {b : Byte} (n : Nat) {x : OccState} (hleft : (consumerOf i).occLeft s.occ = n)
    (hw : producerOf i = some b) (hroom : n + 1 < s.params.capacity) (hx : OccState.ofOcc s.params (n + 1) = x) :
    s.GoesTo i x false := by
  refine goesTo_of_occ hs (by rintro rfl; cases hw) ?_ ?_
  · rw [hw, hleft, occStored, Nat.min_eq_left (by omega), hx]
  · rw [hw, hleft, dropsAt, decide_eq_false_iff_not]
    omega

/-- A WRITE on a full buffer, after a consumer operation that leaves `n` bytes. -/
theorem goesTo_of_full {i : Instr} {b : Byte} (n : Nat) {x : OccState} (hleft : (consumerOf i).occLeft s.occ = n)
    (hw : producerOf i = some b) (hfull : n + 1 = s.params.capacity) (hx : OccState.ofOcc s.params n = x) :
    s.GoesTo i x true := by
  refine goesTo_of_occ hs (by rintro rfl; cases hw) ?_ ?_
  · rw [hw, hleft, occStored, Nat.min_eq_right (by omega), ← hx, ← hfull, Nat.add_sub_cancel]
  · rw [hw, hleft, dropsAt, decide_eq_true_iff]
    omega

/-- From an empty buffer no operation returns a byte: what R95's table notes for READ, WRITE_READ and `DRAIN 0`. -/
theorem exec_of_occ_zero (hocc : s.occ = 0) (i : Instr) :
    ∃ t o, exec i s = .next t ∧ t.out = some o ∧ o.consumer.rdValid = false ∧ o.consumer.drainLen = 0 := by
  obtain ⟨t, hexec, -, hout, -⟩ := exec_refines hs i
  refine ⟨t, _, hexec, hout, ?_⟩
  have hlive : s.abs.live = [] := live_of_occ_zero hocc
  unfold ListState.step
  split
  · exact ⟨rfl, rfl⟩
  · simp only [ListState.cycle, ListState.consume, hlive]
    cases consumerOf i with
    | none => exact ⟨rfl, rfl⟩
    | reserved => exact ⟨rfl, rfl⟩
    | read => exact ⟨rfl, rfl⟩
    | drain th => simp only; split <;> exact ⟨rfl, rfl⟩

theorem goesTo_self {i : Instr} (hi : i ≠ .reset) (hleft : (consumerOf i).occLeft s.occ = s.occ)
    (hw : producerOf i = none) : s.GoesTo i s.occState false :=
  goesTo_of_noWrite hs s.occ hi hleft hw rfl

theorem goesTo_drain_of_le {th : Nat} (hle : th ≤ s.occ) : s.GoesTo (.drain th) .EMPTY false :=
  goesTo_of_noWrite hs 0 nofun (occLeft_drain_of_le hle) rfl (ofOcc_zero _)

/-- With one slot every occupancy is 0 and every WRITE drops (43_occupancy.md R95, last sentence). -/
theorem goesTo_of_capacity_one (hC : s.params.capacity = 1) (i : Instr) :
    s.GoesTo i .EMPTY (producerOf i).isSome := by
  by_cases hi : i = .reset
  · subst hi
    exact resetEdge_goesTo s
  have hocc : s.occ = 0 := by have := occ_lt s; omega
  have hleft := occLeft_of_occ_zero hocc (consumerOf i)
  cases hw : producerOf i with
  | none => exact goesTo_of_noWrite hs 0 hi hleft hw (ofOcc_zero _)
  | some b => exact goesTo_of_full hs 0 hleft hw hC.symm (ofOcc_zero _)

theorem goesTo_read {x : OccState} (hx : OccState.ofOcc s.params (s.occ - 1) = x) : s.GoesTo .read x false :=
  goesTo_of_noWrite hs (s.occ - 1) nofun rfl rfl hx

/-- The READ of a WRITE_READ on a non-empty buffer makes the room that its WRITE takes (45_cycle.md R115). -/
theorem goesTo_writeRead_of_occ_ne_zero (b : Byte) (hocc : s.occ ≠ 0) : s.GoesTo (.writeRead b) s.occState false := by
  have hlt := occ_lt s
  exact goesTo_of_room hs (s.occ - 1) rfl rfl (by omega) (congrArg _ (by omega))

end Ready

/-- Settles O37: every entry of R95's tables is one of the three cases of a cycle, with the occupancy that its consumer
operation leaves. A WRITE_DRAIN below its threshold is the same case as the lone WRITE. -/
theorem occupancyStateTransitions : Obligations.OccupancyStateTransitions := by
  unfold Obligations.OccupancyStateTransitions
  intro s b th hs
  have hlt := occ_lt s
  have hE : s.occState = .EMPTY ↔ s.occ = 0 := ofOcc_eq_empty_iff
  have hP : s.occState = .PARTIAL ↔ s.occ ≠ 0 ∧ s.occ ≠ s.params.capacity - 1 := ofOcc_eq_partial_iff
  have hF : s.occState = .FULL ↔ s.occ ≠ 0 ∧ s.occ = s.params.capacity - 1 := ofOcc_eq_full_iff
  refine ⟨fun hC => ⟨?always, fun hstate => ?fromEmpty, fun hstate => ?fromPartial, fun hstate => ?fromFull⟩,
    fun hC => ⟨fun hstate => ?twoFromEmpty, fun hstate => ?twoFromFull, fun hle => ?twoFiring⟩,
    fun hC i => goesTo_of_capacity_one hs hC i⟩
  case always =>
    have hone := ofOcc_one_of_three_le hC
    exact ⟨goesTo_self hs nofun rfl rfl, goesTo_self hs nofun rfl rfl, resetEdge_goesTo s,
      fun hle => ⟨goesTo_drain_of_le hs hle, goesTo_of_room hs 0 (occLeft_drain_of_le hle) rfl (by omega) hone⟩,
      fun hbelow => goesTo_self hs nofun (occLeft_drain_of_lt hbelow) rfl⟩
  case fromEmpty =>
    have hocc := hE.mp hstate
    have write {i : Instr} (hw : producerOf i = some b) : s.GoesTo i .PARTIAL false :=
      goesTo_of_room hs 0 (occLeft_of_occ_zero hocc _) hw (by omega) (ofOcc_one_of_three_le hC)
    have nothing := exec_of_occ_zero hs hocc
    refine ⟨write rfl, goesTo_read hs (by rw [hocc, ofOcc_zero]), write rfl, fun _ => write rfl, ?read, ?writeRead,
      fun hle => ⟨by omega, ?drain⟩⟩
    case read =>
      obtain ⟨t, o, hexec, hout, hvalid, -⟩ := nothing .read
      exact ⟨t, o, hexec, hout, hvalid⟩
    case writeRead =>
      obtain ⟨t, o, hexec, hout, hvalid, -⟩ := nothing (.writeRead b)
      exact ⟨t, o, hexec, hout, hvalid⟩
    case drain =>
      obtain ⟨t, o, hexec, hout, -, hlen⟩ := nothing (.drain th)
      exact ⟨t, o, hexec, hout, hlen⟩
  case fromPartial =>
    obtain ⟨hne, hlast⟩ := hP.mp hstate
    have hroom : s.occ + 1 < s.params.capacity := by omega
    have write {i : Instr} (hleft : (consumerOf i).occLeft s.occ = s.occ) (hw : producerOf i = some b) :
        s.GoesTo i (if s.occ < s.params.capacity - 2 then .PARTIAL else .FULL) false :=
      goesTo_of_room hs s.occ hleft hw hroom (ofOcc_succ hroom)
    exact ⟨hstate ▸ goesTo_writeRead_of_occ_ne_zero hs b hne, write rfl rfl, goesTo_read hs (ofOcc_pred hlt),
      fun hbelow => write (occLeft_drain_of_lt hbelow) rfl⟩
  case fromFull =>
    obtain ⟨hne, hlast⟩ := hF.mp hstate
    have write {i : Instr} (hleft : (consumerOf i).occLeft s.occ = s.occ) (hw : producerOf i = some b) :
        s.GoesTo i .FULL true :=
      goesTo_of_full hs s.occ hleft hw (by omega) hstate
    exact ⟨write rfl rfl, goesTo_read hs ((ofOcc_pred hlt).trans (if_pos (by omega))),
      hstate ▸ goesTo_writeRead_of_occ_ne_zero hs b hne, fun hbelow => write (occLeft_drain_of_lt hbelow) rfl⟩
  case twoFromEmpty =>
    have hocc := hE.mp hstate
    have hone := ofOcc_one_of_capacity_two hC
    have write {i : Instr} (hw : producerOf i = some b) : s.GoesTo i .FULL false :=
      goesTo_of_room hs 0 (occLeft_of_occ_zero hocc _) hw (by omega) hone
    exact ⟨write rfl, write rfl⟩
  case twoFromFull =>
    obtain ⟨hne, hlast⟩ := hF.mp hstate
    exact ⟨goesTo_of_full hs s.occ rfl rfl (by omega) hstate,
      goesTo_read hs ((ofOcc_pred hlt).trans (if_neg (by omega))),
      hstate ▸ goesTo_writeRead_of_occ_ne_zero hs b hne⟩
  case twoFiring =>
    have hone := ofOcc_one_of_capacity_two hC
    exact ⟨goesTo_drain_of_le hs hle, goesTo_of_room hs 0 (occLeft_drain_of_le hle) rfl (by omega) hone⟩

end Sys2Proof.Machine
end

section
/-! SUPPORT and PROOF. The DRAIN: O19, O28 and O29 (44_drain.md R101, R103, R104). -/

namespace Sys2Proof.Machine

/-- A DRAIN completes wherever its consumer half answers: without a producer operation the intermediate state is the state
after the edge. -/
theorem exec_drain {s m : State} {th : Nat} {co : ConsumerOut} (hrun : s.phase = .running)
    (hdrain : s.drainOp th = .ok (co, m)) :
    exec (.drain th) s = .next (m.driving { status := s.status, consumer := co, wrDrop := false }) :=
  (exec_eq_cycle (i := .drain th) nofun s).trans (cycle_next.mpr ⟨hrun, _, _, _, _, hdrain, produce_none m, rfl⟩)

theorem exec_drain_of_lt {s : State} {th : Nat} (hrun : s.phase = .running) (hlt : s.occ < th) :
    exec (.drain th) s = .next (s.driving
      { status := s.status, consumer := ConsumerOut.zero s.params, wrDrop := false }) :=
  exec_drain hrun (drainOp_ok.mpr (.inr ⟨hlt, rfl, rfl⟩))

theorem exec_drain_of_le {s : State} {th : Nat} (hrun : s.phase = .running) (hle : th ≤ s.occ)
    (hw : s.LiveWritten) :
    exec (.drain th) s = .next (s.drained.driving
      { status := s.status, wrDrop := false
        consumer := { ConsumerOut.zero s.params with
          drainOk := true, drainLen := s.occ, drainData := drainLanes s.params s.live } }) :=
  exec_drain hrun (drainOp_ok.mpr (.inl ⟨hle, s.live, readSlots_live hw, rfl, rfl⟩))

/-- Settles O19: the two cases of R101; the bytes of the second are the live ones, slot by slot. -/
theorem drainTakesEveryLiveByte : Obligations.DrainTakesEveryLiveByte := by
  unfold Obligations.DrainTakesEveryLiveByte
  refine fun s th hrun => ⟨fun hlt => ?below, fun hle hw => ?fires⟩
  case below => rw [exec_drain_of_lt hrun hlt, zero_eq]; rfl
  case fires =>
    refine ⟨s.live, live_length hw, fun i hi => live_getElem? hw hi, ?_⟩
    rw [exec_drain_of_le hrun hle hw, drainLanes, live_length hw, zero_eq]; rfl

/-- The bytes that a DRAIN with threshold `th` takes: all or nothing (44_drain.md R101). -/
def State.drainTaken (s : State) (th : Nat) : List Byte := if s.fires th then s.live else []

theorem drainTaken_of_fires {s : State} {th : Nat} (h : s.fires th = true) : s.drainTaken th = s.live := if_pos h

theorem drainTaken_of_not_fires {s : State} {th : Nat} (h : s.fires th = false) : s.drainTaken th = [] :=
  if_neg (Bool.eq_false_iff.mp h)

/-- The drain outputs from a ready state, whether the DRAIN fires or not: the threshold test, and the bytes taken with
their number. -/
theorem exec_drain_outputs {s : State} (hs : s.Ready) (th : Nat) :
    ∃ t o, exec (.drain th) s = .next t ∧ t.out = some o ∧ o.consumer.drainOk = s.fires th ∧
      o.consumer.drainLen = (s.drainTaken th).length ∧
      o.consumer.drainData = drainLanes s.params (s.drainTaken th) := by
  obtain ⟨-, -, hrun, -, -, -, hw⟩ := ready_iff.mp hs
  rcases Nat.lt_or_ge s.occ th with hlt | hle
  · have hno : s.fires th = false := decide_eq_false (Nat.not_le.mpr hlt)
    refine ⟨_, _, exec_drain_of_lt hrun hlt, driving_out _ _, ?_⟩
    simp [drainTaken_of_not_fires hno, hno, ConsumerOut.zero]
  · have hyes : s.fires th = true := decide_eq_true hle
    refine ⟨_, _, exec_drain_of_le hrun hle hw, driving_out _ _, ?_⟩
    simp [drainTaken_of_fires hyes, hyes, live_length hw]

section Taken

variable {s : State} (hw : s.LiveWritten) (th : Nat)
include hw

theorem drainTaken_length_le : (s.drainTaken th).length ≤ s.occ := by
  cases hfires : s.fires th with
  | true => rw [drainTaken_of_fires hfires, live_length hw]
  | false => rw [drainTaken_of_not_fires hfires]; exact Nat.zero_le _

theorem drainTaken_getElem? {i : Nat} (hi : i < (s.drainTaken th).length) :
    (s.drainTaken th)[i]? = s.stor.find ((s.tail + i) % s.params.capacity) := by
  cases hfires : s.fires th with
  | true => rw [drainTaken_of_fires hfires, live_getElem? hw (hi.trans_le (drainTaken_length_le hw th))]
  | false => simp [drainTaken_of_not_fires hfires] at hi

end Taken

/-- No occupancy reaches `C` (44_drain.md R103, 10_state.md R27). -/
theorem fires_of_capacity_le {s : State} {th : Nat} (h : s.params.capacity ≤ th) : s.fires th = false :=
  decide_eq_false (Nat.not_le.mpr ((occ_lt s).trans_le h))

/-- Settles O28: `drain_ok` is the threshold test, read at each of R103's thresholds. -/
theorem drainThresholdCases : Obligations.DrainThresholdCases := by
  unfold Obligations.DrainThresholdCases
  intro s th hs
  obtain ⟨-, -, -, -, -, -, hw⟩ := ready_iff.mp hs
  obtain ⟨t, o, hexec, hout, hok, hlen, -⟩ := exec_drain_outputs hs th
  refine ⟨t, o, hexec, hout, ?_⟩
  rw [hok, hlen]
  refine ⟨?zero, fun _ _ => decide_eq_true_iff, ?last, fires_of_capacity_le⟩
  case zero =>
    rintro rfl
    exact ⟨fires_zero s, fun hocc => Nat.le_zero.mp (hocc ▸ drainTaken_length_le hw 0)⟩
  case last =>
    rintro rfl -
    rw [fires_capacity_sub_one hs]

theorem drainLanes_getElem?_of_lt (p : Params) {bs : List Byte} {i : Nat} (h : i < bs.length) :
    (drainLanes p bs)[i]? = bs[i]? :=
  List.getElem?_append_left h

theorem drainLanes_getElem?_of_ge {p : Params} {bs : List Byte} {i : Nat} (h : bs.length ≤ i) (hi : i < p.capacity) :
    (drainLanes p bs)[i]? = some 0 := by
  rw [drainLanes, Params.lanes, List.getElem?_append_right h, List.getElem?_replicate, if_pos (by omega)]

/-- Lane `i` is the byte at bits `[8i+7:8i]` of the number the lanes make: the lane at the bottom is below `2^8`, and one
lane less is a shift by 8 bits (44_drain.md R104). -/
theorem getElem?_eq_slice_lanesValue {bs : List Byte} {i : Nat} (hi : i < bs.length) :
    bs[i]? = some (BitVec.ofNat 8 (slice (lanesValue bs) (8 * i + 7) (8 * i))) := by
  induction bs generalizing i with
  | nil => exact absurd hi (Nat.not_lt_zero i)
  | cons b bs ih =>
    have hb := b.isLt
    cases i with
    | zero =>
      have hslice : slice (lanesValue (b :: bs)) (8 * 0 + 7) (8 * 0) = b.toNat := by
        simp only [slice, lanesValue]
        omega
      rw [hslice, BitVec.ofNat_toNat, BitVec.setWidth_eq, List.getElem?_cons_zero]
    | succ i =>
      have hshift : lanesValue (b :: bs) / 2 ^ (8 * (i + 1)) = lanesValue bs / 2 ^ (8 * i) := by
        rw [Nat.mul_succ, Nat.add_comm, Nat.pow_add, ← Nat.div_div_eq_div_mul, lanesValue,
          Nat.add_mul_div_left _ _ (by decide), Nat.div_eq_of_lt hb, Nat.zero_add]
      have hslice : slice (lanesValue (b :: bs)) (8 * (i + 1) + 7) (8 * (i + 1)) =
          slice (lanesValue bs) (8 * i + 7) (8 * i) := by
        rw [slice, slice, hshift]
        congr 2
        omega
      rw [hslice, List.getElem?_cons_succ, ih (Nat.lt_of_succ_lt_succ hi)]

/-- Settles O29: the lanes hold the bytes taken, at most `C - 1` of them, and zeros after them. -/
theorem drainDataLanes : Obligations.DrainDataLanes := by
  unfold Obligations.DrainDataLanes
  intro s th hs
  obtain ⟨-, -, -, -, -, -, hw⟩ := ready_iff.mp hs
  obtain ⟨t, o, hexec, hout, hok, hlen, hdata⟩ := exec_drain_outputs hs th
  have hocc := occ_lt s
  have htaken := drainTaken_length_le hw th
  have hlanes : (drainLanes s.params (s.drainTaken th)).length = s.params.capacity :=
    drainLanes_length (htaken.trans hocc.le)
  refine ⟨t, o, hexec, hout, ?_⟩
  rw [hok, hlen, hdata]
  refine ⟨hlanes, by omega, fun i hi => ?taken, fun i hi hge => drainLanes_getElem?_of_ge hge hi,
    drainLanes_getElem?_of_ge (by omega) (by omega), fun hno i hi => ?idle,
    fun i hi => getElem?_eq_slice_lanesValue (hlanes.symm ▸ hi)⟩
  case taken => rw [drainLanes_getElem?_of_lt _ hi, drainTaken_getElem? hw th hi]
  case idle =>
    rw [drainTaken_of_not_fires hno]
    exact drainLanes_getElem?_of_ge (Nat.zero_le i) hi

end Sys2Proof.Machine
end

section
/-! SUPPORT and PROOF. One step performs the operation of its cycle word: O7 (45_cycle.md R110). -/

namespace Sys2Proof.Machine

theorem step_of_stimulus {s : State} {cw : Nat} {rest : List Nat} {i : Instr} (hstim : s.stimulus = cw :: rest)
    (hdecode : decode s.params cw = .ok i) : step s = exec i (s.under rest) := by
  rw [step, fetch_ok.mpr ⟨cw, rest, hstim, hdecode, rfl⟩]

/-- Settles O7: `under` is the state with its stimulus replaced. -/
theorem stepRunsDecodedOperation : Obligations.StepRunsDecodedOperation := by
  unfold Obligations.StepRunsDecodedOperation
  intro s cw rest i hstim hdecode
  exact step_of_stimulus hstim hdecode

end Sys2Proof.Machine
end

section
/-! SUPPORT and PROOF. No admitted cycle faults or is refused: O40 (45_cycle.md R119, 60_exceptions.md R131,
70_reset_and_hazards.md R154). -/

namespace Sys2Proof.Machine

/-- From a state of the invariant an operation completes, in a ready state, where the block has been reset or the operation
is RESET. -/
theorem exec_completes {s : State} {i : Instr} (hs : s.Inv) (hadmitted : s.phase = .running ∨ i = .reset) :
    ∃ t, exec i s = .next t ∧ t.Ready := by
  rcases hadmitted with hrun | rfl
  · obtain ⟨t, hexec, ht, -⟩ := exec_refines ⟨hs, hrun⟩ i
    exact ⟨t, hexec, ht⟩
  · exact ⟨s.resetEdge, exec_reset s, exec_next_ready hs (exec_reset s)⟩

theorem exec_refused_of_unreset {s : State} {i : Instr} (hphase : s.phase = .unreset) (hi : i ≠ .reset) :
    exec i s = .refused .beforeFirstReset :=
  (exec_eq_cycle hi s).trans (cycle_refused.mpr ⟨hphase, rfl⟩)

/-- An operation that is not admitted is refused before it could fault. -/
theorem exec_ne_fault {s : State} (hs : s.Inv) (i : Instr) (f : Fault) : exec i s ≠ .fault f := by
  by_cases hadmitted : s.phase = .running ∨ i = .reset
  · obtain ⟨t, hexec, -⟩ := exec_completes hs hadmitted
    simp [hexec]
  · obtain ⟨hphase, hi⟩ := not_or.mp hadmitted
    cases hp : s.phase with
    | running => exact absurd hp hphase
    | unreset => simp [exec_refused_of_unreset hp hi]

theorem decode_of_rst {p : Params} {cw : Nat} (hcw : cw < 2 ^ p.cwW) (hrst : cw.testBit 11 = true) :
    decode p cw = .ok .reset := by
  rw [decode_of_lt p hcw, unpack_eq_bits hcw, instr_of_rst hrst]

/-- Settles O40: a fault of a step would be one of its operation; an admitted word decodes, before the first reset to
RESET. -/
theorem everyAdmittedCycleCompletes : Obligations.EveryAdmittedCycleCompletes := by
  unfold Obligations.EveryAdmittedCycleCompletes
  refine ⟨fun s f hs hfault => ?noFault, fun i s hs => exec_completes hs.1 (.inl hs.2),
    fun s cw rest hs hstim hcw hadmitted => ?admitted⟩
  case noFault =>
    obtain ⟨cw, rest, i, -, -, hexec⟩ := step_fault hfault
    exact exec_ne_fault ((under_inv s rest).mpr hs) i f hexec
  case admitted =>
    have hdecode := decode_of_lt s.params hcw
    have hadmitted' : s.phase = .running ∨ (Inputs.unpack s.params cw).instr = .reset :=
      hadmitted.imp_right fun hrst => by simpa [hdecode] using decode_of_rst hcw hrst
    obtain ⟨t, hexec, ht⟩ := exec_completes ((under_inv s rest).mpr hs) hadmitted'
    exact ⟨t, (step_of_stimulus hstim hdecode).trans hexec, exec_stimulus hexec, ht⟩

end Sys2Proof.Machine
end

section
/-! PROOF. The circular buffer refines the list of bytes: O41 (45_cycle.md R121). -/

namespace Sys2Proof.Machine

/-- Settles O41: the step lemma `exec_refines`, which joins the refinements of the two halves of a cycle, and the bound on
the live bytes. -/
theorem circularBufferRefinesList : Obligations.CircularBufferRefinesList := by
  unfold Obligations.CircularBufferRefinesList
  intro i s hs
  obtain ⟨t, hexec, ht, hout, habs⟩ := exec_refines hs i
  exact ⟨live_length_le hs, t, hexec, ht, exec_params hexec, hout, habs⟩

end Sys2Proof.Machine
end

section
/-! SUPPORT and PROOF. The idle cycles, NOP and the reserved command: O20 (45_cycle.md R114, R117). -/

namespace Sys2Proof.Machine

/-- Without a producer operation, a consumer command that performs nothing leaves the state. -/
theorem cycle_idle {s : State} {c : ConsumerOp} (hidle : s.consume c = .ok (ConsumerOut.zero s.params, s))
    (hrun : s.phase = .running) :
    s.cycle c none = .next (s.driving
      { status := s.statusRunning, consumer := ConsumerOut.zero s.params, wrDrop := false }) := by
  rw [← status_running s hrun]
  exact cycle_next.mpr ⟨hrun, _, _, _, _, hidle, produce_none s, rfl⟩

/-- Settles O20: both commands perform no consumer operation. -/
theorem nopAndReservedChangeNothing : Obligations.NopAndReservedChangeNothing := by
  unfold Obligations.NopAndReservedChangeNothing
  intro s hrun
  simp only [← zero_eq]
  exact ⟨cycle_idle (consume_none s) hrun, cycle_idle (consume_reserved s) hrun⟩

end Sys2Proof.Machine
end

section
/-! SUPPORT and PROOF. Response outputs that nothing drives: O34 (45_cycle.md R112). -/

namespace Sys2Proof.Machine

theorem consume_rd_undriven {s m : State} {c : ConsumerOp} {co : ConsumerOut} (hc : s.consume c = .ok (co, m))
    (hread : c ≠ .read) : co.rdValid = false ∧ co.rdData = 0 := by
  cases c with
  | none => cases hc; exact ⟨rfl, rfl⟩
  | reserved => cases hc; exact ⟨rfl, rfl⟩
  | read => exact absurd rfl hread
  | drain th => rcases drainOp_ok.mp hc with ⟨-, bytes, -, rfl, -⟩ | ⟨-, rfl, -⟩ <;> exact ⟨rfl, rfl⟩

theorem consume_drain_undriven {s m : State} {c : ConsumerOp} {co : ConsumerOut} (hc : s.consume c = .ok (co, m))
    (hdrain : ∀ th, c ≠ .drain th) :
    co.drainOk = false ∧ co.drainLen = 0 ∧ co.drainData = List.replicate s.params.capacity 0 := by
  have hzero := zero_drainData s.params
  cases c with
  | none => cases hc; exact ⟨rfl, rfl, hzero⟩
  | reserved => cases hc; exact ⟨rfl, rfl, hzero⟩
  | read => rcases readOp_ok.mp hc with ⟨-, rfl, -⟩ | ⟨-, b, -, -, rfl, -⟩ <;> exact ⟨rfl, rfl, hzero⟩
  | drain th => exact absurd rfl (hdrain th)

/-- Settles O34: the outputs of a cycle are those of its two halves, and a reset cycle drives none. -/
theorem undrivenResponsesAreZero : Obligations.UndrivenResponsesAreZero := by
  unfold Obligations.UndrivenResponsesAreZero
  intro i s t h
  by_cases hi : i = .reset
  · subst hi
    cases h
    exact ⟨_, resetEdge_out s, fun _ => ⟨rfl, rfl⟩, fun _ => ⟨rfl, rfl, zero_drainData s.params⟩, fun _ => rfl⟩
  · rw [exec_eq_cycle hi] at h
    obtain ⟨-, co, m, drop, u, hc, hw, rfl⟩ := cycle_next.mp h
    refine ⟨_, driving_out u _, consume_rd_undriven hc, consume_drain_undriven hc, fun hnone => ?_⟩
    rcases produce_ok.mp hw with ⟨-, hdrop, -⟩ | ⟨b, hb, -⟩
    · exact hdrop
    · simp [hnone] at hb

end Sys2Proof.Machine
end

section
/-! SUPPORT and PROOF. The order within a cycle: O23 (45_cycle.md R111). -/

namespace Sys2Proof.Machine

/-- The operation `j` that takes the consumer command of `i` and a WRITE beside it is `i`, then the WRITE on the state that
`i` leaves. -/
theorem exec_consumer_then_write {s : State} (hs : s.Ready) {i j : Instr} {wd : Byte} (hi : i ≠ .reset)
    (hnone : producerOf i = none) (hsame : consumerOf j = consumerOf i) (hwrite : producerOf j = some wd) :
    ∃ m u om ou, exec i s = .next m ∧ m.out = some om ∧ exec (.write wd) m = .next u ∧ u.out = some ou ∧
      exec j s = .next { u with
        out := some { status := s.status, consumer := om.consumer, wrDrop := ou.wrDrop } } := by
  obtain ⟨-, -, hrun, -⟩ := ready_iff.mp hs
  obtain ⟨m, hc, hm, -⟩ := consume_refines hs (consumerOf i)
  obtain ⟨-, -, hrun', hh, -⟩ := ready_iff.mp hm
  have hj : j ≠ .reset := by rintro rfl; cases hwrite
  have no_write : m.produce (producerOf i) = .ok (false, m) := by rw [hnone, produce_none]
  have write : m.produce (producerOf j) = .ok (m.isFull, m.pushed wd) := by
    rw [hwrite, produce_some, writeOp_ok.mpr ⟨hh, rfl, rfl⟩]
  have alone := cycle_next.mpr ⟨hrun, _, _, _, _, hc, no_write, rfl⟩
  have both := cycle_next.mpr ⟨hrun, _, _, _, _, (congrArg s.consume hsame).trans hc, write, rfl⟩
  exact ⟨_, _, _, _, (exec_eq_cycle hi s).trans alone, driving_out _ _, exec_write (s := m.driving _) hrun' hh wd,
    driving_out _ _, (exec_eq_cycle hj s).trans both⟩

/-- Settles O23: the two combined rows are READ and DRAIN with a WRITE beside them. -/
theorem consumerBeforeProducer : Obligations.ConsumerBeforeProducer := by
  unfold Obligations.ConsumerBeforeProducer
  intro s wd th hs
  exact ⟨exec_consumer_then_write hs (i := .read) (j := .writeRead wd) nofun rfl rfl rfl,
    exec_consumer_then_write hs (i := .drain th) (j := .writeDrain wd th) nofun rfl rfl rfl⟩

end Sys2Proof.Machine
end

section
/-! SUPPORT and PROOF. The corner cases of WRITE_READ: O24 (45_cycle.md R115). -/

namespace Sys2Proof.Machine

section InRange

variable {s : State} (hh : s.head < s.params.capacity) (ht : s.tail < s.params.capacity)
include hh ht

/-- A READ that returns a byte makes room. -/
theorem isFull_popped (hne : s.head ≠ s.tail) : s.popped.isFull = false := by
  have := occ_popped s hh ht hne
  have := occ_lt s
  rw [Bool.eq_false_iff, ne_eq, isFull_iff_occ (s := s.popped) hh (inc_lt _ _), popped_params]
  omega

/-- A READ that returns a byte, then a WRITE: the oldest byte goes, the new one joins as the newest. -/
theorem live_pushed_popped (hw : s.LiveWritten) (hne : s.head ≠ s.tail) (b : Byte) :
    (s.popped.pushed b).live = s.live.tail ++ [b] := by
  obtain ⟨x, -, hlive⟩ := live_eq_cons_popped hh ht hw hne
  rw [live_pushed_of_room (s := s.popped) hh (inc_lt _ _) b (isFull_popped hh ht hne), hlive, List.tail_cons]

theorem occ_pushed_popped (hne : s.head ≠ s.tail) (b : Byte) : (s.popped.pushed b).occ = s.occ := by
  rw [occ_pushed_of_room s.popped b hh (inc_lt _ _) (isFull_popped hh ht hne), occ_popped s hh ht hne]

end InRange

theorem exec_writeRead_of_empty {s : State} (hrun : s.phase = .running) (hh : s.head < s.params.capacity)
    (hempty : s.head = s.tail) (b : Byte) :
    exec (.writeRead b) s = .next ((s.pushed b).driving
      { status := s.status, consumer := ConsumerOut.zero s.params, wrDrop := s.isFull }) :=
  cycle_write (c := .read) (readOp_ok.mpr (.inl ⟨isEmpty_iff.mpr hempty, rfl, rfl⟩)) hrun hh b

/-- On a non-empty buffer the READ of a WRITE_READ returns the oldest byte and its WRITE never drops. -/
theorem exec_writeRead_of_ne {s : State} {x : Byte} (hrun : s.phase = .running) (hh : s.head < s.params.capacity)
    (ht : s.tail < s.params.capacity) (hne : s.head ≠ s.tail) (hx : s.stor.find s.tail = some x) (b : Byte) :
    exec (.writeRead b) s = .next ((s.popped.pushed b).driving
      { status := s.status, consumer := { ConsumerOut.zero s.params with rdValid := true, rdData := x }
        wrDrop := false }) := by
  have hempty : s.isEmpty = false := Bool.eq_false_iff.mpr (mt isEmpty_iff.mp hne)
  have hread := readOp_ok.mpr (.inr ⟨hempty, x, ht, hx, rfl, rfl⟩)
  have hwrite := writeOp_ok (m := s.popped) (b := b).mpr ⟨hh, (isFull_popped hh ht hne).symm, rfl⟩
  exact (exec_eq_cycle (i := .writeRead b) nofun s).trans (cycle_next.mpr ⟨hrun, _, _, _, _, hread, hwrite, rfl⟩)

/-- Settles O24: the READ finds nothing or the oldest byte. With one slot it always finds nothing. -/
theorem writeReadCases : Obligations.WriteReadCases := by
  unfold Obligations.WriteReadCases
  intro s wd hs
  obtain ⟨-, -, hrun, hh, ht, -, hw⟩ := ready_iff.mp hs
  by_cases hempty : s.head = s.tail
  case pos =>
    have hocc : s.occ = 0 := occ_of_head_eq_tail hempty
    refine ⟨_, _, exec_writeRead_of_empty hrun hh hempty wd, driving_out _ _, fun _ => ⟨rfl, fun hC => ?joins⟩,
      fun hfull hC => absurd hempty (head_ne_tail_of_full hh ht hC hfull), fun hpartial => ?notPartial,
      fun hC => ?oneSlot⟩
    case joins =>
      have hroom : s.isFull = false := Bool.eq_false_iff.mpr fun hfull => head_ne_tail_of_full hh ht hC hfull hempty
      rw [driving_occ, driving_live, occ_pushed_of_room s wd hh ht hroom, live_pushed_of_room hh ht wd hroom, hocc,
        live_of_occ_zero hocc]
      exact ⟨rfl, rfl⟩
    case notPartial => exact absurd hocc (ofOcc_eq_partial_iff.mp hpartial).1
    case oneSlot =>
      obtain ⟨hhead, -, -, hfull⟩ := ready_of_capacity_one hs hC
      obtain ⟨-, -, hocc', -⟩ := ready_of_capacity_one (ready_pushed hs wd) hC
      refine ⟨rfl, hfull, live_of_occ_zero hocc', ?_, ?_⟩
      · rw [driving_dropCount, pushed_dropCount, if_pos hfull]
      · rw [driving_stor, pushed_stor, hhead, find_store_self]
  case neg =>
    obtain ⟨x, hx, hlive⟩ := live_eq_cons_popped hh ht hw hempty
    have hocc := occ_pushed_popped hh ht hempty wd
    refine ⟨_, _, exec_writeRead_of_ne hrun hh ht hempty hx wd, driving_out _ _, fun hzero => ?notEmpty,
      fun hfull _ => ⟨rfl, by rw [hlive, List.head?_cons], rfl, ?_, hocc.trans ((isFull_iff_occ hh ht).mp hfull)⟩,
      fun _ => ⟨hocc, live_pushed_popped hh ht hw hempty wd⟩, fun hC => ?oneSlot⟩
    case notEmpty => exact absurd (isEmpty_iff.mp ((isEmpty_iff_occ hh ht).mpr hzero)) hempty
    case oneSlot =>
      obtain ⟨hhead, htail, -⟩ := ready_of_capacity_one hs hC
      exact absurd (hhead.trans htail.symm) hempty
    · simp [isFull_popped hh ht hempty]

end Sys2Proof.Machine
end

section
/-! SUPPORT and PROOF. The corner cases of WRITE_DRAIN: O25 (45_cycle.md R116). -/

namespace Sys2Proof.Machine

theorem isFull_drained {s : State} (hh : s.head < s.params.capacity) (hC : 2 ≤ s.params.capacity) :
    s.drained.isFull = false := by
  rw [Bool.eq_false_iff, ne_eq, isFull_iff_occ (s := s.drained) hh hh, occ_drained, drained_params]
  omega

theorem exec_writeDrain_of_le {s : State} {th : Nat} (hrun : s.phase = .running) (hh : s.head < s.params.capacity)
    (hle : th ≤ s.occ) (hw : s.LiveWritten) (b : Byte) :
    exec (.writeDrain b th) s = .next ((s.drained.pushed b).driving
      { status := s.status, wrDrop := s.drained.isFull
        consumer := { ConsumerOut.zero s.params with
          drainOk := true, drainLen := s.occ, drainData := drainLanes s.params s.live } }) := by
  have hdrain := drainOp_ok.mpr (.inl ⟨hle, s.live, readSlots_live hw, rfl, rfl⟩)
  have hwrite := writeOp_ok (m := s.drained) (b := b).mpr ⟨hh, rfl, rfl⟩
  exact (exec_eq_cycle (i := .writeDrain b th) nofun s).trans
    (cycle_next.mpr ⟨hrun, _, _, _, _, hdrain, hwrite, rfl⟩)

/-- Below its threshold a WRITE_DRAIN is the lone WRITE. -/
theorem exec_writeDrain_of_lt {s : State} {th : Nat} (hrun : s.phase = .running) (hh : s.head < s.params.capacity)
    (hlt : s.occ < th) (b : Byte) : exec (.writeDrain b th) s = exec (.write b) s :=
  (cycle_write (c := .drain th) (drainOp_ok.mpr (.inr ⟨hlt, rfl, rfl⟩)) hrun hh b).trans (exec_write hrun hh b).symm

theorem take_drainLanes (p : Params) (bs : List Byte) : (drainLanes p bs).take bs.length = bs :=
  List.take_left' rfl

/-- Settles O25: the DRAIN takes every live byte or none. With one slot the state it leaves is full either way. -/
theorem writeDrainCases : Obligations.WriteDrainCases := by
  unfold Obligations.WriteDrainCases
  intro s wd th hs
  obtain ⟨-, -, hrun, hh, ht, -, hw⟩ := ready_iff.mp hs
  rcases Nat.lt_or_ge s.occ th with hlt | hle
  case inl =>
    have hwrite := exec_write hrun hh wd
    refine ⟨_, _, (exec_writeDrain_of_lt hrun hh hlt wd).trans hwrite, driving_out _ _, fun hle => ?_,
      fun _ => ⟨rfl, _, _, hwrite, driving_out _ _, rfl, rfl, rfl, rfl, rfl, rfl⟩, fun hC => ⟨?_, rfl, ?_⟩⟩
    · exact absurd hle (Nat.not_le.mpr hlt)
    · have : th ≠ 0 := by omega
      simp [this]
    · obtain ⟨-, -, -, hfull⟩ := ready_of_capacity_one hs hC
      exact hfull
  case inr =>
    refine ⟨_, _, exec_writeDrain_of_le hrun hh hle hw wd, driving_out _ _,
      fun _ => ⟨rfl, rfl, ?lanes, fun hC => ?left⟩, fun hlt => absurd hle (Nat.not_le.mpr hlt), fun hC => ?oneSlot⟩
    case lanes => rw [← live_length hw, take_drainLanes]
    case left =>
      have hroom := isFull_drained hh hC
      refine ⟨?_, hroom, ?_⟩
      · rw [driving_live, live_pushed_of_room (s := s.drained) hh hh wd hroom, live_of_occ_zero (occ_drained s)]
        rfl
      · simp [hroom]
    case oneSlot =>
      obtain ⟨-, -, hocc, -⟩ := ready_of_capacity_one hs hC
      obtain ⟨-, -, -, hfull⟩ := ready_of_capacity_one (ready_drained hs) hC
      exact ⟨⟨fun _ => by omega, fun _ => rfl⟩, hocc, hfull⟩

end Sys2Proof.Machine
end

section
/-! SUPPORT. Runs under given cycle words from a ready state, one word at a time (30_encoding.md R59, 45_cycle.md R121). -/

namespace Sys2Proof.Machine

/-- `0x100 + b` is the cycle word of WRITE, whatever the parameters (30_encoding.md R59). -/
theorem decode_write (p : Params) (b : Byte) : decode p (0x100 + b.toNat) = .ok (.write b) := by
  have hpack : Inputs.pack ⟨true, b, .none, 0, false⟩ = 0x100 + b.toNat := by
    rw [pack_eq]
    rfl
  exact decode_of_encode rfl (congrArg some hpack)

/-- The step under a word that decodes takes that word and follows the list model. -/
theorem step_under_cons_refines {s : State} (hs : s.Ready) {cw : Nat} {i : Instr} (h : decode s.params cw = .ok i)
    (rest : List Nat) :
    ∃ u : State, step (s.under (cw :: rest)) = .next (u.under rest) ∧ u.Ready ∧ u.params = s.params ∧
      u.out = some (ListState.step s.params s.abs i).1 ∧ u.abs = (ListState.step s.params s.abs i).2 := by
  obtain ⟨u, hexec, hu, hout, habs⟩ := exec_refines ((under_ready s rest).mpr hs) i
  obtain rfl : u.stimulus = rest := exec_stimulus hexec
  exact ⟨u, (step_under_cons h).trans hexec, hu, (exec_params hexec).trans (under_params s _), hout, habs⟩

end Sys2Proof.Machine
end

section
/-! SUPPORT and PROOF. The overwrite law: O43 (45_cycle.md R122 item 3). -/

namespace Sys2Proof.Machine

/-- What a first overwrite lost, a later one would have lost too. -/
theorem lastK_lastK_append (k : Nat) (xs ys : List Byte) : lastK k (lastK k xs ++ ys) = lastK k (xs ++ ys) := by
  simp only [lastK]
  rw [← List.drop_append_of_le_length (Nat.sub_le _ _), List.drop_drop, List.length_drop, List.length_append]
  congr 1
  omega

theorem lastK_append_of_le {k : Nat} (xs : List Byte) {ys : List Byte} (h : k ≤ ys.length) :
    lastK k (xs ++ ys) = lastK k ys := by
  rw [lastK, lastK, List.length_append, Nat.add_sub_assoc h, List.drop_append]
  simp

/-- A run of WRITE cycles keeps the newest `C - 1` of the bytes live before it and those written. -/
theorem runsTo_writes {s : State} (hs : s.Ready) (bytes : List Byte) (rest : List Nat) :
    ∃ u : State, RunsTo bytes.length (s.under ((bytes.map fun b => 0x100 + b.toNat) ++ rest)) (u.under rest) ∧ u.Ready ∧
      u.params = s.params ∧ u.live = lastK (s.params.capacity - 1) (s.live ++ bytes) := by
  induction bytes generalizing s with
  | nil =>
    refine ⟨s, runsTo_zero.mpr rfl, hs, rfl, ?_⟩
    rw [List.append_nil, lastK_of_length_le (live_length_le hs)]
  | cons b bytes ih =>
    obtain ⟨v, hstep, hv, hparams, -, habs⟩ := step_under_cons_refines hs (decode_write s.params b) _
    obtain ⟨u, hrun, hu, hparams', hlive⟩ := ih hv
    have hvlive : v.live = lastK (s.params.capacity - 1) (s.live ++ [b]) := congrArg ListState.live habs
    refine ⟨u, runsTo_succ.mpr ⟨_, hstep, hrun⟩, hu, hparams'.trans hparams, ?_⟩
    rw [hlive, hparams, hvlive, lastK_lastK_append, List.append_assoc, List.singleton_append]

/-- Settles O43: the newest `C - 1` bytes are all among those written. -/
theorem overwriteKeepsTheNewest : Obligations.OverwriteKeepsTheNewest := by
  unfold Obligations.OverwriteKeepsTheNewest
  intro s bytes hs hlen
  obtain ⟨u, hrun, -, -, hlive⟩ := runsTo_writes hs bytes []
  rw [List.append_nil] at hrun
  exact ⟨_, hrun, by rw [under_live, hlive, lastK_append_of_le _ hlen, lastK]⟩

end Sys2Proof.Machine
end

section
/-! SUPPORT and PROOF. First in, first out from an empty buffer: O44 (45_cycle.md R122 item 2, 20_memory.md R47). -/

namespace Sys2Proof.Machine

/-- A READ cycle on a non-empty buffer returns the oldest byte. -/
theorem step_read_of_live_cons {s : State} (hs : s.Ready) {b : Byte} {bs : List Byte} (hlive : s.live = b :: bs)
    (rest : List Nat) :
    ∃ (u : State) (o : Outputs), step (s.under (0x200 :: rest)) = .next (u.under rest) ∧ u.Ready ∧ u.out = some o ∧
      o.consumer.rdValid = true ∧ o.consumer.rdData = b ∧ u.live = bs := by
  obtain ⟨u, hstep, hu, -, hout, habs⟩ := step_under_cons_refines hs (decode_read s.params) rest
  have hcons : s.abs = ⟨b :: bs, s.dropCount⟩ := by rw [State.abs, hlive]
  rw [hcons] at hout habs
  exact ⟨u, _, hstep, hu, hout, rfl, rfl, congrArg ListState.live habs⟩

/-- A run of READ cycles within the occupancy: the last of them, the `k`th counted from 0, returns live byte `k`. -/
theorem runsTo_reads {s : State} (hs : s.Ready) {k : Nat} (hk : k < s.live.length) :
    ∃ (t : State) (o : Outputs), RunsTo (k + 1) (s.under (List.replicate (k + 1) 0x200)) t ∧ t.out = some o ∧
      o.consumer.rdValid = true ∧ some o.consumer.rdData = s.live[k]? ∧ t.live = s.live.drop (k + 1) := by
  induction k generalizing s with
  | zero =>
    obtain ⟨b, bs, hlive⟩ := List.exists_cons_of_length_pos hk
    obtain ⟨u, o, hstep, -, hout, hvalid, hdata, hlive'⟩ := step_read_of_live_cons hs hlive []
    refine ⟨_, o, runsTo_succ.mpr ⟨_, hstep, runsTo_zero.mpr rfl⟩, hout, hvalid, ?_, ?_⟩
    · rw [hdata, hlive, List.getElem?_cons_zero]
    · rw [under_live, hlive', hlive]; rfl
  | succ k ih =>
    obtain ⟨b, bs, hlive⟩ := List.exists_cons_of_length_pos (Nat.zero_lt_of_lt hk)
    obtain ⟨u, -, hstep, hu, -, -, -, rfl⟩ := step_read_of_live_cons hs hlive (List.replicate (k + 1) 0x200)
    rw [hlive, List.length_cons] at hk
    obtain ⟨t, o, hrun, hout, hvalid, hdata, hlive'⟩ := ih hu (Nat.lt_of_succ_lt_succ hk)
    refine ⟨t, o, runsTo_succ.mpr ⟨_, hstep, hrun⟩, hout, hvalid, ?_, ?_⟩
    · rw [hdata, hlive, List.getElem?_cons_succ]
    · rw [hlive', hlive, List.drop_succ_cons]

/-- Settles O44: at most `C - 1` WRITEs into an empty buffer leave just their bytes live, for the READs to take. -/
theorem firstInFirstOut : Obligations.FirstInFirstOut := by
  unfold Obligations.FirstInFirstOut
  intro s bytes k hs hempty hfit hk
  obtain ⟨u, hwrites, hu, -, hlive⟩ := runsTo_writes hs bytes (List.replicate (k + 1) 0x200)
  rw [hempty, List.nil_append, lastK_of_length_le hfit] at hlive
  obtain ⟨t, o, hreads, hout, hvalid, hdata, hlive'⟩ := runsTo_reads hu (hlive.symm ▸ hk)
  rw [hlive] at hdata hlive'
  exact ⟨t, o, runsTo_add.mpr ⟨_, hwrites, hreads⟩, hout, hvalid, hdata, hlive'⟩

end Sys2Proof.Machine
end

section
/-! SUPPORT and PROOF. Conservation of bytes: in one cycle, O48, and over a sequence, O49 (45_cycle.md R122 item 2). On the
list model the consumer half splits off the bytes returned, and the producer half the byte dropped. -/

namespace Sys2Proof.Machine

/-- The consumer half returns the bytes it takes from the front of the list. -/
theorem listConsume_conserves {p : Params} {a : ListState} {c : ConsumerOp} {o : Outputs}
    (ho : o.consumer = (a.consume p c).1) : a.live = o.returned ++ (a.consume p c).2 := by
  obtain ⟨live, d⟩ := a
  rw [Outputs.returned, ho]
  cases c with
  | none => rfl
  | reserved => rfl
  | read => cases live <;> rfl
  | drain th =>
    simp only [ListState.consume]
    split
    · simp [take_drainLanes]
    · rfl

/-- The producer half on a list of at most `C - 1` bytes drops at most one byte, from the front, exactly where it says so. -/
theorem listProduce_conserves {p : Params} {m : List Byte} (hm : m.length ≤ p.capacity - 1) (d : Nat)
    (w : Option Byte) :
    ∃ lost : List Byte, lost.length = (if (ListState.produce p m d w).1 then 1 else 0) ∧
      m ++ w.toList = lost ++ (ListState.produce p m d w).2.live := by
  cases w with
  | none => exact ⟨[], rfl, List.append_nil m⟩
  | some b =>
    refine ⟨(m ++ [b]).take ((m ++ [b]).length - (p.capacity - 1)), ?_, (List.take_append_drop _ _).symm⟩
    simp only [ListState.produce, List.length_take, List.length_append, List.length_singleton, decide_eq_true_eq]
    split <;> omega

/-- The two halves together: the middle list is shorter by the bytes returned, so that the second half applies. -/
theorem listCycle_conserves {p : Params} {a : ListState} (ha : a.live.length ≤ p.capacity - 1) (c : ConsumerOp)
    (w : Option Byte) :
    ∃ lost : List Byte, lost.length = (if (a.cycle p c w).1.wrDrop then 1 else 0) ∧
      a.live ++ w.toList = (a.cycle p c w).1.returned ++ lost ++ (a.cycle p c w).2.live := by
  have hreturned : a.live = (a.cycle p c w).1.returned ++ (a.consume p c).2 := listConsume_conserves rfl
  have hmiddle : (a.consume p c).2.length ≤ p.capacity - 1 := by
    rw [hreturned, List.length_append] at ha
    omega
  obtain ⟨lost, hlost, hkept⟩ := listProduce_conserves hmiddle a.dropCount w
  refine ⟨lost, hlost, ?_⟩
  calc a.live ++ w.toList
    _ = (a.cycle p c w).1.returned ++ ((a.consume p c).2 ++ w.toList) := by
      rw [← List.append_assoc, ← hreturned]
    _ = (a.cycle p c w).1.returned ++ lost ++ (a.cycle p c w).2.live := by
      rw [hkept, List.append_assoc]
      rfl

/-- Every operation but RESET, from a ready state: the bytes before it and the byte written are the bytes returned, those
lost and those left, in order. -/
theorem exec_conserves {s : State} (hs : s.Ready) {i : Instr} (hi : i ≠ .reset) :
    ∃ (t : State) (o : Outputs) (lost : List Byte), exec i s = .next t ∧ t.Ready ∧ t.out = some o ∧
      lost.length = (if o.wrDrop then 1 else 0) ∧
      s.live ++ (producerOf i).toList = o.returned ++ lost ++ t.live := by
  obtain ⟨t, hexec, ht, hout, habs⟩ := exec_refines hs i
  rw [ListState.step, if_neg hi] at hout habs
  obtain ⟨lost, hlost, hbytes⟩ := listCycle_conserves (a := s.abs) (live_length_le hs) (consumerOf i) (producerOf i)
  rw [← habs] at hbytes
  exact ⟨t, _, lost, hexec, ht, hout, hlost, hbytes⟩

/-- Settles O48 from the conservation law of the list model, which every operation of the buffer follows. -/
theorem cycleKeepsBytesInOrder : Obligations.CycleKeepsBytesInOrder := by
  unfold Obligations.CycleKeepsBytesInOrder
  intro i s hs hi
  obtain ⟨t, o, lost, hexec, -, hout, hlost, hbytes⟩ := exec_conserves hs hi
  exact ⟨t, o, lost, hexec, hout, hlost, hbytes⟩

theorem exec_dropCount {s t : State} (hs : s.Ready) {i : Instr} {o : Outputs} (hi : i ≠ .reset)
    (h : exec i s = .next t) (hout : t.out = some o) :
    t.dropCount = (s.dropCount + if o.wrDrop then 1 else 0) % 2 ^ s.params.dropW := by
  obtain ⟨-, -, -, -, -, hd, -⟩ := ready_iff.mp hs
  obtain ⟨-, o', effect⟩ := (exec_next h).resolve_left fun hreset => hi hreset.1
  obtain rfl : o' = o := Option.some.inj (effect.out.symm.trans hout)
  rw [effect.dropCount]
  split
  · rfl
  · rw [Nat.add_zero, Nat.mod_eq_of_lt hd]

/-- What a sequence of operations that answered `outs` and `t` did with the bytes: it left out as many as there were drop
events, and nothing else. -/
structure State.Conserves (s : State) (is : List Instr) (outs : List Outputs) (t : State) : Prop where
  length : outs.length = is.length
  sublist : (bytesReturned outs ++ t.live).Sublist (s.live ++ bytesWritten is)
  count : (bytesReturned outs).length + t.live.length + dropEvents outs = s.live.length + (bytesWritten is).length
  dropCount : t.dropCount = (s.dropCount + dropEvents outs) % 2 ^ s.params.dropW

theorem conserves_nil {s : State} (hs : s.Ready) : s.Conserves [] [] s := by
  obtain ⟨-, -, -, -, -, hd, -⟩ := ready_iff.mp hs
  exact { length := rfl, sublist := by simp, count := by simp, dropCount := by simp [Nat.mod_eq_of_lt hd] }

/-- One cycle before a sequence: the bytes it returns stand in front, and the byte it drops is left out. -/
theorem conserves_cons {s u t : State} {i : Instr} {is : List Instr} {o : Outputs} {outs : List Outputs}
    {lost : List Byte} (hparams : u.params = s.params) (hlost : lost.length = (if o.wrDrop then 1 else 0))
    (hbytes : s.live ++ (producerOf i).toList = o.returned ++ lost ++ u.live)
    (hcount : u.dropCount = (s.dropCount + if o.wrDrop then 1 else 0) % 2 ^ s.params.dropW)
    (hrest : u.Conserves is outs t) : s.Conserves (i :: is) (o :: outs) t where
  length := by rw [List.length_cons, List.length_cons, hrest.length]
  sublist := by
    rw [bytesReturned_cons, bytesWritten_cons, ← List.append_assoc s.live, hbytes]
    simp only [List.append_assoc]
    exact (hrest.sublist.trans (List.sublist_append_right lost _)).append_left o.returned
  count := by
    have hlen := congrArg List.length hbytes
    have := hrest.count
    simp only [List.length_append, bytesReturned_cons, bytesWritten_cons, dropEvents_cons] at hlen ⊢
    omega
  dropCount := by
    rw [hrest.dropCount, hparams, hcount, dropEvents_cons, Nat.mod_add_mod, Nat.add_assoc, Nat.add_comm (dropEvents outs)]

/-- Any operations but RESET complete from a ready state and conserve the bytes. -/
theorem perform_conserves {s : State} (hs : s.Ready) {is : List Instr} (his : .reset ∉ is) :
    ∃ outs t, s.perform is = some (outs, t) ∧ s.Conserves is outs t := by
  induction is generalizing s with
  | nil => exact ⟨[], s, perform_nil s, conserves_nil hs⟩
  | cons i is ih =>
    obtain ⟨hi, his'⟩ := List.ne_and_not_mem_of_not_mem_cons his
    obtain ⟨u, o, lost, hexec, hu, hout, hlost, hbytes⟩ := exec_conserves hs hi.symm
    obtain ⟨outs, t, hperform, hrest⟩ := ih hu his'
    refine ⟨o :: outs, t, perform_cons.mpr ⟨u, outs, hexec, hperform, by simp [hout]⟩, ?_⟩
    exact conserves_cons (exec_params hexec) hlost hbytes (exec_dropCount hs hi.symm hexec hout) hrest

/-- Settles O49: with no drop event the counts make the subsequence the whole. -/
theorem returnedBytesAreInWriteOrder : Obligations.ReturnedBytesAreInWriteOrder := by
  unfold Obligations.ReturnedBytesAreInWriteOrder
  intro s is hs his
  obtain ⟨outs, t, hperform, conserves⟩ := perform_conserves hs his
  refine ⟨outs, t, hperform, conserves.length, conserves.sublist, conserves.count, fun hnone => ?_, conserves.dropCount⟩
  refine conserves.sublist.eq_of_length ?_
  rw [List.length_append, List.length_append, ← conserves.count, hnone, Nat.add_zero]

end Sys2Proof.Machine
end

section
/-! SUPPORT and PROOF. Capacity and monotonicity: O50 (45_cycle.md R122 items 1 and 6), from the occupancies of
43_occupancy.md R94. -/

namespace Sys2Proof.Machine

theorem occLeft_le (n : Nat) (c : ConsumerOp) : c.occLeft n ≤ n := by
  cases c with
  | none => exact le_rfl
  | reserved => exact le_rfl
  | read => exact Nat.sub_le n 1
  | drain th => simp only [ConsumerOp.occLeft]; split <;> omega

/-- Only a READ and a DRAIN that fires leave fewer bytes. -/
theorem occLeft_cases (n : Nat) (c : ConsumerOp) :
    c.occLeft n = n ∨ c = .read ∨ ∃ th, c = .drain th ∧ th ≤ n := by
  cases c with
  | none => exact .inl rfl
  | reserved => exact .inl rfl
  | read => exact .inr (.inl rfl)
  | drain th =>
    rcases Nat.lt_or_ge n th with hlt | hle
    · exact .inl (occLeft_drain_of_lt hlt)
    · exact .inr (.inr ⟨th, rfl, hle⟩)

theorem le_occStored {p : Params} {n : Nat} (hn : n ≤ p.capacity - 1) (w : Option Byte) : n ≤ occStored p n w := by
  cases w with
  | none => exact le_rfl
  | some b => exact Nat.le_min.mpr ⟨Nat.le_succ n, hn⟩

theorem occStored_le_succ (p : Params) (n : Nat) (w : Option Byte) : occStored p n w ≤ n + 1 := by
  cases w with
  | none => exact Nat.le_succ n
  | some b => exact Nat.min_le_left _ _

theorem listConsume_drainOk {p : Params} {a : ListState} {th : Nat} (h : th ≤ a.live.length) :
    (a.consume p (.drain th)).1.drainOk = true := by
  simp [ListState.consume, h]

/-- Settles O50: the number of live bytes goes down only in the consumer half and up only in the producer half. -/
theorem occupancyMovesOnlyAsNamed : Obligations.OccupancyMovesOnlyAsNamed := by
  unfold Obligations.OccupancyMovesOnlyAsNamed
  intro i s hs
  have hbound : s.abs.live.length ≤ s.params.capacity - 1 := live_length_le hs
  obtain ⟨t, hexec, -, hout, habs⟩ := exec_refines hs i
  obtain ⟨hstatus, -⟩ := step_fitsPorts hbound i
  refine ⟨t, _, hexec, hout, by rw [hstatus]; exact hbound, ?_⟩
  have hlive : t.live = (ListState.step s.params s.abs i).2.live := congrArg ListState.live habs
  rw [hlive, show s.live = s.abs.live from rfl]
  by_cases hi : i = .reset
  case pos =>
    subst hi
    exact ⟨Nat.zero_le _, fun _ => .inl rfl, fun hmore => absurd hmore (Nat.not_lt_zero _)⟩
  case neg =>
    rw [ListState.step, if_neg hi, ListState.cycle, listProduce_length, listConsume_length]
    generalize hn : s.abs.live.length = n at hbound
    have hleft := occLeft_le n (consumerOf i)
    have hkept := le_occStored (hleft.trans hbound) (producerOf i)
    have hstored := occStored_le_succ s.params ((consumerOf i).occLeft n) (producerOf i)
    refine ⟨by omega, fun hless => .inr ?fewer, fun hmore => ?more⟩
    case fewer =>
      rcases occLeft_cases n (consumerOf i) with hsame | hread | ⟨th, hdrain, hfires⟩
      · omega
      · exact .inl hread
      · refine .inr ⟨th, hdrain, ?_⟩
        rw [hdrain]
        exact listConsume_drainOk (hn.symm ▸ hfires)
    case more =>
      cases hw : producerOf i with
      | some b => rfl
      | none =>
        rw [hw] at hmore
        exact absurd hmore (Nat.not_lt.mpr hleft)

end Sys2Proof.Machine
end

section
/-! SUPPORT and PROOF. What is refused, where and why: O11 (60_exceptions.md R130). -/

namespace Sys2Proof.Machine

theorem construct_zero (dropW : Nat) : construct 0 dropW = .refused .invalidCapacity := rfl

theorem construct_of_pos {capacity dropW : Nat} (hc : 0 < capacity) (hd : 0 < dropW) :
    construct capacity dropW = .next (State.resetFor ⟨capacity, dropW, hc, hd⟩) := by
  simp [construct, hc, hd]

/-- The one refusal of an operation (70_reset_and_hazards.md R152). -/
theorem exec_refused_iff {i : Instr} {s : State} {r : Refusal} :
    exec i s = .refused r ↔ i ≠ .reset ∧ s.phase = .unreset ∧ r = .beforeFirstReset := by
  by_cases hi : i = .reset
  case pos => simp [hi, exec_reset]
  case neg => rw [exec_eq_cycle hi, cycle_refused, and_iff_right hi]

/-- The environment's two refusals (logs 3 and 4): it presents nothing, or a number of more than `CW_W` bits. -/
theorem fetch_error_iff {s : State} {r : Refusal} :
    s.fetch = .error r ↔
      (s.stimulus = [] ∧ r = .noStimulus) ∨
      ∃ cw rest, s.stimulus = cw :: rest ∧ 2 ^ s.params.cwW ≤ cw ∧ r = .notACycleWord cw := by
  unfold State.fetch
  cases hstim : s.stimulus with
  | nil => simp [eq_comm]
  | cons cw rest =>
    rcases Nat.lt_or_ge cw (2 ^ s.params.cwW) with hlt | hge
    · simp [decode_of_lt s.params hlt, hlt]
    · simp [decode_of_ge s.params hge, hge, eq_comm]

theorem step_refused_iff {s : State} {r : Refusal} :
    step s = .refused r ↔ s.fetch = .error r ∨ ∃ i u, s.fetch = .ok (i, u) ∧ exec i u = .refused r := by
  unfold step
  cases hfetch : s.fetch with
  | error r' => simp
  | ok iu =>
    obtain ⟨i, u⟩ := iu
    simp

/-- Settles O11: `exec_refused_iff` and `fetch_error_iff` name every refusal of a cycle, and InvalidCapacity is none of them. -/
theorem zeroCapacityRefusedAtElaboration : Obligations.ZeroCapacityRefusedAtElaboration := by
  unfold Obligations.ZeroCapacityRefusedAtElaboration
  have hexec (i : Instr) (s : State) : exec i s ≠ .refused .invalidCapacity := fun h => by
    obtain ⟨-, -, hr⟩ := exec_refused_iff.mp h
    cases hr
  have hfetch (s : State) : s.fetch ≠ .error .invalidCapacity := fun h => by
    rcases fetch_error_iff.mp h with ⟨-, hr⟩ | ⟨_, _, -, -, hr⟩ <;> cases hr
  refine ⟨construct_zero, fun capacity dropW hc hd => ?made, fun s => s.params.capacity_pos, hexec, fun s h => ?stepped⟩
  case made => exact ⟨_, construct_of_pos hc hd, rfl, rfl, ready_resetFor _⟩
  case stepped =>
    rcases step_refused_iff.mp h with herror | ⟨i, u, -, hrefused⟩
    · exact hfetch s herror
    · exact hexec i u hrefused

end Sys2Proof.Machine
end

section
/-! SUPPORT and PROOF. The reset cycle: O9 and O12 (70_reset_and_hazards.md R150, R151, R152). -/

namespace Sys2Proof.Machine

/-- Settles O9: RESET is the one operation that does not look at the phase. -/
theorem onlyResetBeforeFirstReset : Obligations.OnlyResetBeforeFirstReset := by
  unfold Obligations.OnlyResetBeforeFirstReset
  intro s hphase
  exact ⟨fun i => exec_refused_of_unreset hphase, s.resetEdge, exec_reset s, resetEdge_phase s, resetEdge_head s,
    resetEdge_tail s, resetEdge_dropCount s⟩

/-- The status outputs of a running block, as the formulas of R90 and R91 write them. -/
theorem status_eq_of_running {s : State} (hrun : s.phase = .running) :
    s.status = ⟨s.occ, decide (s.head = s.tail), decide ((s.head + 1) % s.params.capacity = s.tail), s.dropCount⟩ := by
  rw [status_running s hrun, State.statusRunning, isFull_eq_decide]
  rfl

theorem resetEdge_status (s : State) : s.resetEdge.status = ⟨0, true, decide (s.params.capacity = 1), 0⟩ := by
  obtain ⟨t, hexec, -, -, hdrops, -, hocc, hempty, hfull, -⟩ := stateAfterReset s
  cases hexec
  have hfull' : s.resetEdge.isFull = decide (s.params.capacity = 1) :=
    Bool.eq_iff_iff.mpr (hfull.trans decide_eq_true_iff.symm)
  rw [status_running _ (resetEdge_phase s), State.statusRunning, hocc, hempty, hfull', hdrops]

/-- Settles O12: the state R150 and R151 describe is `resetEdge`, and a word with RST set decodes to RESET. -/
theorem resetCycle : Obligations.ResetCycle := by
  unfold Obligations.ResetCycle
  refine ⟨fun s => ⟨?edge, status_eq_of_running, s.resetEdge, exec_reset s, resetEdge_status s⟩,
    fun s cw rest hstim hcw hrst => step_of_stimulus hstim (decode_of_rst hcw hrst)⟩
  case edge => rw [← zero_eq, exec_reset, State.resetEdge]

end Sys2Proof.Machine
end

section
/-! SUPPORT and PROOF. Bytes that were seen can be read: O45 (70_reset_and_hazards.md R159). -/

namespace Sys2Proof.Machine

theorem listRead_rdValid (p : Params) {a : ListState} (h : 0 < a.live.length) :
    (a.consume p .read).1.rdValid = true := by
  obtain ⟨live, d⟩ := a
  obtain ⟨b, rest, rfl⟩ := List.exists_cons_of_length_pos h
  rfl

/-- A cycle with a READ takes at most one byte: a WRITE beside it drops only on a full buffer, where it replaces the byte
it drops. -/
theorem listCycle_read_length {p : Params} {a : ListState} (ha : a.live.length ≤ p.capacity - 1) (w : Option Byte) :
    a.live.length - 1 ≤ (a.cycle p .read w).2.live.length := by
  rw [ListState.cycle, listProduce_length, listConsume_length]
  exact le_occStored ((Nat.sub_le _ _).trans ha) w

/-- A cycle with a READ on a non-empty buffer returns a byte and leaves all others to be read. -/
theorem step_of_consumer_read {s : State} (hs : s.Ready) {cw : Nat} {i : Instr} (hdecode : decode s.params cw = .ok i)
    (hread : consumerOf i = .read) (hlive : 0 < s.live.length) (rest : List Nat) :
    ∃ (u : State) (o : Outputs), step (s.under (cw :: rest)) = .next (u.under rest) ∧ u.Ready ∧ u.params = s.params ∧
      u.out = some o ∧ o.consumer.rdValid = true ∧ s.live.length - 1 ≤ u.live.length := by
  obtain ⟨u, hstep, hu, hparams, hout, habs⟩ := step_under_cons_refines hs hdecode rest
  have hi : i ≠ .reset := by rintro rfl; cases hread
  rw [ListState.step, if_neg hi, hread] at hout habs
  refine ⟨u, _, hstep, hu, hparams, hout, listRead_rdValid s.params (a := s.abs) hlive, ?_⟩
  calc s.live.length - 1
    _ ≤ (s.abs.cycle s.params .read (producerOf i)).2.live.length :=
      listCycle_read_length (a := s.abs) (live_length_le hs) _
    _ = u.live.length := by rw [← habs]; rfl

/-- A run of cycles with a READ in each, no longer than the list of live bytes: the last of them returns a byte, and so,
shorter runs first, does every one. -/
theorem runsTo_consumer_reads {s : State} (hs : s.Ready) {words : List Nat} (hne : words ≠ [])
    (hlen : words.length ≤ s.live.length)
    (hreads : ∀ w ∈ words, ∃ i, decode s.params w = .ok i ∧ consumerOf i = .read) :
    ∃ (t : State) (o : Outputs), RunsTo words.length (s.under words) t ∧ t.out = some o ∧
      o.consumer.rdValid = true := by
  induction words generalizing s with
  | nil => exact absurd rfl hne
  | cons w words ih =>
    obtain ⟨⟨i, hdecode, hread⟩, hreads'⟩ := List.forall_mem_cons.mp hreads
    rw [List.length_cons] at hlen
    obtain ⟨u, o, hstep, hu, hparams, hout, hvalid, hkept⟩ :=
      step_of_consumer_read hs hdecode hread (by omega) words
    by_cases hlast : words = []
    case pos =>
      subst hlast
      exact ⟨_, o, runsTo_succ.mpr ⟨_, hstep, runsTo_zero.mpr rfl⟩, hout, hvalid⟩
    case neg =>
      obtain ⟨t, o', hrun, hout', hvalid'⟩ := ih hu hlast (by omega) (hparams.symm ▸ hreads')
      exact ⟨t, o', runsTo_succ.mpr ⟨_, hstep, hrun⟩, hout', hvalid'⟩

/-- Settles O45: READ and WRITE_READ have the same consumer operation, and the occupancy counts the live bytes. -/
theorem seenBytesCanBeRead : Obligations.SeenBytesCanBeRead := by
  unfold Obligations.SeenBytesCanBeRead
  intro s words hs hne hlen hwords
  obtain ⟨-, -, -, -, -, -, hw⟩ := ready_iff.mp hs
  refine runsTo_consumer_reads hs hne ((live_length hw).symm ▸ hlen) fun w hmem => ?_
  rcases hwords w hmem with hread | ⟨b, hwriteRead⟩
  · exact ⟨_, hread, rfl⟩
  · exact ⟨_, hwriteRead, rfl⟩

end Sys2Proof.Machine
end

section
/-! SUPPORT and PROOF. The write-to-read latency: O47 (70_reset_and_hazards.md R156). -/

namespace Sys2Proof.Machine

/-- `0x300 + b` is the cycle word of WRITE_READ, whatever the parameters (30_encoding.md R59). -/
theorem decode_writeRead (p : Params) (b : Byte) : decode p (0x300 + b.toNat) = .ok (.writeRead b) := by
  have hpack : Inputs.pack ⟨true, b, .read, 0, false⟩ = 0x300 + b.toNat := by
    rw [pack_eq]
    rfl
  exact decode_of_encode rfl (congrArg some hpack)

/-- The READ of a WRITE_READ cycle comes before the WRITE: on an empty buffer it returns nothing, and the byte stays. -/
theorem step_writeRead_of_live_nil {s : State} (hs : s.Ready) (hlive : s.live = []) (hC : 2 ≤ s.params.capacity)
    (b : Byte) (rest : List Nat) :
    ∃ (u : State) (o : Outputs), step (s.under ((0x300 + b.toNat) :: rest)) = .next (u.under rest) ∧ u.Ready ∧
      u.out = some o ∧ o.consumer.rdValid = false ∧ o.consumer.rdData = 0x00 ∧ u.live = [b] := by
  obtain ⟨u, hstep, hu, -, hout, habs⟩ := step_under_cons_refines hs (decode_writeRead s.params b) rest
  have hnil : s.abs = ⟨[], s.dropCount⟩ := by rw [State.abs, hlive]
  rw [hnil] at hout habs
  refine ⟨u, _, hstep, hu, hout, rfl, rfl, ?_⟩
  calc u.live
    _ = lastK (s.params.capacity - 1) [b] := congrArg ListState.live habs
    _ = [b] := lastK_of_length_le (Nat.le_sub_one_of_lt hC)

/-- Settles O47: the WRITE_READ leaves the byte for the READ of the next cycle. -/
theorem writtenByteReadInNextCycle : Obligations.WrittenByteReadInNextCycle := by
  unfold Obligations.WrittenByteReadInNextCycle
  refine fun s b hs hlive hC => ⟨?first, ?second⟩
  case first =>
    obtain ⟨u, o, hstep, -, hout, hvalid, hdata, hlive'⟩ := step_writeRead_of_live_nil hs hlive hC b []
    exact ⟨_, o, runsTo_succ.mpr ⟨_, hstep, runsTo_zero.mpr rfl⟩, hout, hvalid, hdata, hlive'⟩
  case second =>
    obtain ⟨u, -, hwriteRead, hu, -, -, -, hlive'⟩ := step_writeRead_of_live_nil hs hlive hC b [0x200]
    obtain ⟨t, o, hread, -, hout, hvalid, hdata, hlive''⟩ := step_read_of_live_cons hu hlive' []
    have hrun : RunsTo 2 (s.under [0x300 + b.toNat, 0x200]) (t.under []) :=
      runsTo_succ.mpr ⟨_, hwriteRead, runsTo_succ.mpr ⟨_, hread, runsTo_zero.mpr rfl⟩⟩
    exact ⟨_, o, hrun, hout, hvalid, hdata, hlive''⟩

end Sys2Proof.Machine
end

section
/-! SUPPORT and PROOF. The model's own faults: one lemma per shared operation that says where it faults, and O30
(92_eei_decisions.md D25, 20_memory.md R46; logs 7 and 8). -/

namespace Sys2Proof.Machine

section Faults

variable {s : State} {f : Fault}

theorem readSlot_error {a : Nat} :
    s.readSlot a = .error f ↔
      (a < s.params.capacity ∧ s.stor.find a = none ∧ f = .unwrittenSlot a) ∨
      (s.params.capacity ≤ a ∧ f = .noSuchSlot a) := by
  unfold State.readSlot
  rcases Nat.lt_or_ge a s.params.capacity with hlt | hge
  · cases hfind : s.stor.find a with
    | none => simp [hlt, eq_comm]
    | some b => simp [hlt]
  · simp [Nat.not_lt.mpr hge, hge, eq_comm]

/-- Among slots that exist, the first one that nothing has written is the one that stops the read. -/
theorem readSlots_error_of_unwritten {slots : List Nat} (hexist : ∀ a ∈ slots, a < s.params.capacity)
    (hunwritten : ∃ a ∈ slots, s.stor.find a = none) :
    ∃ a ∈ slots, s.stor.find a = none ∧ s.readSlots slots = .error (.unwrittenSlot a) := by
  induction slots with
  | nil => simp at hunwritten
  | cons x rest ih =>
    have hx : x < s.params.capacity := hexist x List.mem_cons_self
    cases hfind : s.stor.find x with
    | none =>
      have hread : s.readSlot x = .error (.unwrittenSlot x) := readSlot_error.mpr (.inl ⟨hx, hfind, rfl⟩)
      exact ⟨x, List.mem_cons_self, hfind, by rw [State.readSlots, hread]⟩
    | some b =>
      have hread : s.readSlot x = .ok b := readSlot_ok.mpr ⟨hx, hfind⟩
      have hrest : ∃ a ∈ rest, s.stor.find a = none := by simpa [hfind] using hunwritten
      obtain ⟨a, ha, hnone, herror⟩ := ih (fun a ha => hexist a (List.mem_cons_of_mem x ha)) hrest
      exact ⟨a, List.mem_cons_of_mem x ha, hnone, by rw [State.readSlots, hread, herror]⟩

theorem readOp_error : s.readOp = .error f ↔ s.head ≠ s.tail ∧ s.readSlot s.tail = .error f := by
  rw [ne_eq, ← isEmpty_iff]
  unfold State.readOp
  cases s.isEmpty with
  | true => simp
  | false => cases s.readSlot s.tail <;> simp

theorem drainOp_error {th : Nat} :
    s.drainOp th = .error f ↔ th ≤ s.occ ∧ s.readSlots s.liveSlots = .error f := by
  unfold State.drainOp State.fires
  rcases Nat.lt_or_ge s.occ th with hlt | hge
  · simp [Nat.not_le.mpr hlt]
  · cases s.readSlots s.liveSlots <;> simp [hge]

theorem writeOp_error {b : Byte} :
    s.writeOp b = .error f ↔ s.params.capacity ≤ s.head ∧ f = .noSuchSlot s.head := by
  unfold State.writeOp
  rcases Nat.lt_or_ge s.head s.params.capacity with hlt | hge
  · simp [hlt]
  · simp [Nat.not_lt.mpr hge, hge, eq_comm]

/-- A cycle faults exactly where the block has been reset and one of its halves does, the producer's on the state that the
consumer's leaves (45_cycle.md R118). -/
theorem cycle_fault {c : ConsumerOp} {w : Option Byte} :
    s.cycle c w = .fault f ↔
      s.phase = .running ∧
        (s.consume c = .error f ∨ ∃ co m, s.consume c = .ok (co, m) ∧ m.produce w = .error f) := by
  unfold State.cycle
  cases s.phase with
  | unreset => simp
  | running =>
    cases hconsume : s.consume c with
    | error g => simp
    | ok answer =>
      obtain ⟨co, m⟩ := answer
      cases hproduce : m.produce w with
      | error g => simp [hproduce]
      | ok written => simp [hproduce]

/-- A fault of the consumer half stops the operation, whatever its producer half. -/
theorem exec_fault_of_consume {i : Instr} (hrun : s.phase = .running) (hi : i ≠ .reset)
    (h : s.consume (consumerOf i) = .error f) : exec i s = .fault f :=
  (exec_eq_cycle hi s).trans (cycle_fault.mpr ⟨hrun, .inl h⟩)

/-- Beside a consumer command that performs nothing, a WRITE to a slot that does not exist stops the operation. -/
theorem exec_fault_of_write {i : Instr} {b : Byte} (hrun : s.phase = .running) (hi : i ≠ .reset)
    (hidle : s.consume (consumerOf i) = .ok (ConsumerOut.zero s.params, s)) (hw : producerOf i = some b)
    (hh : s.params.capacity ≤ s.head) : exec i s = .fault (.noSuchSlot s.head) := by
  have hproduce : s.produce (producerOf i) = .error (.noSuchSlot s.head) := by
    rw [hw]
    exact writeOp_error.mpr ⟨hh, rfl⟩
  exact (exec_eq_cycle hi s).trans (cycle_fault.mpr ⟨hrun, .inr ⟨_, s, hidle, hproduce⟩⟩)

theorem exists_unwritten_of_not_liveWritten (h : ¬s.LiveWritten) : ∃ a ∈ s.liveSlots, s.stor.find a = none := by
  simpa [State.LiveWritten] using h

end Faults

/-- Settles O30: READ and DRAIN fault in the consumer half, on `tail` and on the first live slot that nothing has
written; the lone WRITE faults in the producer half. -/
theorem faultsOutsideTheInvariant : Obligations.FaultsOutsideTheInvariant := by
  unfold Obligations.FaultsOutsideTheInvariant
  refine fun s wd th hrun => ⟨fun hne ht hnone => ?unwritten, fun hne ht => ?tail, fun hh => ?head,
    fun hle hlive => ?drain⟩
  case unwritten =>
    have hread := readOp_error.mpr ⟨hne, readSlot_error.mpr (.inl ⟨ht, hnone, rfl⟩)⟩
    exact ⟨exec_fault_of_consume hrun nofun hread, exec_fault_of_consume hrun nofun hread⟩
  case tail =>
    have hread := readOp_error.mpr ⟨hne, readSlot_error.mpr (.inr ⟨ht, rfl⟩)⟩
    exact ⟨exec_fault_of_consume hrun nofun hread, exec_fault_of_consume hrun nofun hread⟩
  case head =>
    exact ⟨exec_fault_of_write hrun nofun (consume_none s) rfl hh,
      exec_fault_of_write hrun nofun (consume_reserved s) rfl hh⟩
  case drain =>
    obtain ⟨a, ha, hnone, hslots⟩ :=
      readSlots_error_of_unwritten (fun _ => lt_of_mem_liveSlots) (exists_unwritten_of_not_liveWritten hlive)
    have hdrain := drainOp_error.mpr ⟨hle, hslots⟩
    exact ⟨a, ha, hnone, exec_fault_of_consume hrun nofun hdrain, exec_fault_of_consume hrun nofun hdrain⟩

end Sys2Proof.Machine
end

section
/-! PROOF. A step without a cycle word: O8 (30_encoding.md R52; logs 3 and 4). -/

namespace Sys2Proof.Machine

theorem step_refused_of_fetch {s : State} {r : Refusal} (h : s.fetch = .error r) : step s = .refused r :=
  step_refused_iff.mpr (.inl h)

/-- Settles O8: the two refusals of the environment's side of a cycle. -/
theorem stepStopsWithoutCycleWord : Obligations.StepStopsWithoutCycleWord := by
  unfold Obligations.StepStopsWithoutCycleWord
  refine ⟨fun s hnil => ?noWord, fun s w rest hcons hwide => ?tooWide⟩
  case noWord => exact step_refused_of_fetch (fetch_error_iff.mpr (.inl ⟨hnil, rfl⟩))
  case tooWide => exact step_refused_of_fetch (fetch_error_iff.mpr (.inr ⟨w, rest, hcons, hwide, rfl⟩))

end Sys2Proof.Machine
end

section
/-! SUPPORT and PROOF. The outputs of the first reset cycle: O10 (70_reset_and_hazards.md R151, R152; log 6). -/

namespace Sys2Proof.Machine

/-- Before the first reset the numbers among the status outputs are free, but each is one its port can show. -/
theorem status_fitsPorts_of_unreset {s : State} (hphase : s.phase = .unreset) :
    s.status.occupancy < 2 ^ s.params.occW ∧ s.status.dropCount < 2 ^ s.params.dropW := by
  rw [status_unreset s hphase]
  exact ⟨Nat.mod_lt _ (Nat.two_pow_pos _), Nat.mod_lt _ (Nat.two_pow_pos _)⟩

/-- Settles O10: the outputs of `resetEdge`, with the status that an unreset block shows. -/
theorem firstResetOutputs : Obligations.FirstResetOutputs := by
  unfold Obligations.FirstResetOutputs
  intro s hphase
  obtain ⟨hoccupancy, hdropCount⟩ := status_fitsPorts_of_unreset hphase
  exact ⟨s.resetEdge, _, exec_reset s, resetEdge_out s, hoccupancy, hdropCount, zero_eq s.params, rfl⟩

end Sys2Proof.Machine
end

section
/-! PROOF. OCCUPANCY taken alone is an idle cycle: O22 (43_occupancy.md R90; log 10). -/

namespace Sys2Proof.Machine

/-- Settles O22: neither half of the cycle performs anything, and the status is that of a running block. -/
theorem occupancyAloneChangesNothing : Obligations.OccupancyAloneChangesNothing := by
  unfold Obligations.OccupancyAloneChangesNothing
  intro s hrun
  rw [← zero_eq]
  exact (exec_eq_cycle (i := .occupancy) nofun s).trans (cycle_idle (consume_none s) hrun)

end Sys2Proof.Machine
end
